-- ==== Sys2Proof/Word.lean ====
section
/-! DEFINITION. The word types of the block: bytes, the 16-bit command word (CMD16), the 11-bit request word (REQ11) and the
19-bit response word (RSP19). spec/30_encoding.md R35. -/

namespace Sys2Proof

/-- A byte: 8 bits, bit 0 least significant (spec/00_scope.md section 6). -/
abbrev Byte := BitVec 8

/-- CMD16, a command on the wire: one 16-bit opcode with no sub-fields (R35, R36). -/
abbrev CmdWord := BitVec 16

/-- REQ11, one request to the block (R35, R42). -/
abbrev ReqWord := BitVec 11

/-- RSP19, one response of the block (R35, R45). -/
abbrev RspWord := BitVec 19

end Sys2Proof
end

