-- ==== Sys2Proof/Config.lean ====
section
/-! DEFINITION. What is fixed for the block: the hardwired constants of spec/00_scope.md section 5 (R17), the width of the
group counter, and the parameters the spec leaves open for the host's side (POLL_MAX, ID_FAMILY_CODE, DEV_ADDR, the floating-point format). -/

namespace Sys2Proof

/-- CRC_POLY: the generator polynomial, x^8 term implicit (spec/40_crc_validator.md R55). -/
abbrev Config.crcPoly : Byte := 0x31#8

/-- CRC_INIT: the register's value before the first data byte of each group (R55). -/
abbrev Config.crcInit : Byte := 0xFF#8

/-- GIDX_W: the width of GIDX and of FGRP, the spec's default (spec/10_state.md R13, spec/92_eei_decisions.md D6).
DESIGN CHOICE (log 7): the spec allows any width of at least 1; the model has the default. -/
abbrev Config.gidxW : Nat := 8

/-- GROUP_LEN: bytes per group, DATA_LEN = 2 data bytes and the checksum byte (spec/30_encoding.md R40). -/
abbrev Config.groupLen : Nat := 3

/-- The parameters the spec leaves open, all of them the host's and outside the block (spec/92_eei_decisions.md D21 to D23).
They have no value here: the host's procedures take them as an argument. -/
structure Config.HostParams where
  /-- POLL_MAX, the polling attempt ceiling (R108, D21). -/
  pollMax : Nat
  /-- ID_FAMILY_CODE, compared with the low 6 bits of byte 1 of the ID response (R112, D22). -/
  idFamilyCode : BitVec 6
  /-- DEV_ADDR, the device bus address as the bus collaborator is given it (R103, D23). -/
  devAddr : Byte
  deriving DecidableEq, Repr

/-- The floating-point format of the host's conversions, which the spec leaves a parameter of the host model
(spec/93_implementation_defined.md U5; spec/91_not_in_source.md N10). DESIGN CHOICE (log 16): a format is given by its
rounding, which takes the exact result of an operation to the number the format has for it. -/
structure Config.FloatFormat where
  round : Rat → Rat

end Sys2Proof
end

