-- ==== Sys2Proof/Machine/Crc.lean ====
section
/-! DEFINITION. The checksum and the validator as pure functions of bytes (spec/40_crc_validator.md R55 to R60). The
bit-level algorithm is the reading of the parameters that the spec adopts from general knowledge (R56 to R58, D24, G1; log 9,
PRESUMED). -/

namespace Sys2Proof.Machine

/-- `crc8_bit(c)`: shift left; when bit 7 was 1, xor the polynomial in (R56). -/
def crc8Bit (c : Byte) : Byte :=
  if c.msb then (c <<< 1) ^^^ Config.crcPoly else c <<< 1

/-- `crc8_bit` repeated `n` times. -/
def crc8Shift : Nat → Byte → Byte
  | 0, c => c
  | n + 1, c => crc8Shift n (crc8Bit c)

/-- `crc8_byte(c, b)`: xor the byte into the register, then shift eight times (R57). -/
def crc8Byte (c b : Byte) : Byte := crc8Shift 8 (c ^^^ b)

/-- The register after the bytes of `s`, from the value `c` (R58). -/
def crc8From (c : Byte) : List Byte → Byte
  | [] => c
  | b :: s => crc8From (crc8Byte c b) s

/-- `crc8(s)`: from the initial value, with no final xor and no reflection (R58). -/
def crc8 (s : List Byte) : Byte := crc8From Config.crcInit s

/-- `group_ok(d0, d1, c)` (R59). -/
def groupOk (d0 d1 c : Byte) : Bool := crc8 [d0, d1] == c

/-- Every whole group of the buffer is good; the bytes of a trailing partial group are not judged (R60, R27). -/
def groupsOk : List Byte → Bool
  | d0 :: d1 :: c :: s => groupOk d0 d1 c && groupsOk s
  | _ => true

/-- `validate(s)`: defined only when the length is a multiple of 3 (R60, R68; U8). -/
def validate (s : List Byte) : Option Bool :=
  if s.length % Config.groupLen = 0 then some (groupsOk s) else none

/-- The 0-based index of the first whole group that is not good, if there is one (R65, R69). -/
def firstBadGroup : List Byte → Option Nat
  | d0 :: d1 :: c :: s => if groupOk d0 d1 c then (firstBadGroup s).map (· + 1) else some 0
  | _ => none

/-- The bytes of the trailing partial group: the last `n mod 3` bytes (R65). -/
def partialGroup (s : List Byte) : List Byte := s.drop (s.length / Config.groupLen * Config.groupLen)

/-- The 16-bit data word of a group, big-endian (spec/20_memory.md R25). The block forms none; it is for whoever reads the
data bytes after a true verdict. -/
def dataWord (d0 d1 : Byte) : BitVec 16 := d0 ++ d1

end Sys2Proof.Machine
end

