-- ==== Sys2Proof/Syntax.lean ====
section
/-! DEFINITION. The command set, the instructions (one constructor per row of spec/opcode_table.json), the words that carry
them, and the response with its status codes. -/

namespace Sys2Proof

/-- The fixed set of six commands (spec/41_command_encoder.md R81). -/
inductive Command where
  | wakeup | reset | sleep | readId | measureNormal | measureLowPower
  deriving DecidableEq, Repr

/-- The instructions: the nine request forms (spec/48_absent_families.md R93) and the six wire rows
(spec/30_encoding.md R36). -/
inductive Instr where
  /-- `VSTART`: begin a new buffer (R62). -/
  | vstart
  /-- `VBYTE byte`: push the next byte of the buffer (R63). -/
  | vbyte (byte : Byte)
  /-- `VEND`: end the buffer and give the verdict (R64). -/
  | vend
  /-- `ENC WAKEUP` (R84). -/
  | encWakeup
  /-- `ENC RESET` (R85). -/
  | encReset
  /-- `ENC SLEEP` (R86). -/
  | encSleep
  /-- `ENC READID` (R87). -/
  | encReadid
  /-- `ENC MEASN` (R88). -/
  | encMeasn
  /-- `ENC MEASLP` (R89). -/
  | encMeaslp
  /-- The command Wakeup on the wire, 0x3517 (R36, R81). -/
  | cmdWakeup
  /-- The command Reset on the wire, 0x805D (R36, R81). -/
  | cmdReset
  /-- The command Sleep on the wire, 0xB098 (R36, R81). -/
  | cmdSleep
  /-- The command ReadID on the wire, 0xEFC8 (R36, R81). -/
  | cmdReadid
  /-- The command MeasureNormal on the wire, 0x58E0 (R36, R81). -/
  | cmdMeasn
  /-- The command MeasureLowPower on the wire, 0x401A (R36, R81). -/
  | cmdMeaslp
  deriving DecidableEq, Repr

/-- What carries an instruction: a request word on the request port (REQ11), or a command word on its way to the bus (CMD16).
Every term of `Instr` is well formed, since its one operand has a type of exactly the 256 bytes R43 admits; what can be ill
formed is one of these words (WellFormed.lean). -/
inductive CodeWord where
  | request (w : ReqWord)
  | frame (w : CmdWord)
  deriving DecidableEq, Repr

/-- The four status codes, the complete list of error causes (spec/60_exceptions.md R131). -/
inductive Status where
  /-- 0: the request was accepted and carried out. -/
  | ok
  /-- 1: no such operation. -/
  | errOp
  /-- 2: the operation exists but its argument is reserved. -/
  | errArg
  /-- 3: VEND while the buffer's length is not a multiple of 3. -/
  | errLen
  deriving DecidableEq, Repr

/-- A response by its fields (spec/30_encoding.md R45); `Response.toWord` of Machine/Operands.lean gives the 19-bit word. -/
structure Response where
  status : Status
  /-- The verdict; it carries meaning only in the response to VEND. -/
  result : Bool
  /-- The command frame; it carries meaning only in the response to an accepted ENC. -/
  frame : CmdWord
  deriving DecidableEq, Repr

/-- Why a word is no instruction. -/
inductive Reject where
  /-- A reserved request word; the block answers it with this status (R47, R131). -/
  | reserved (st : Status)
  /-- One of the 65530 16-bit words that are no command (R37). -/
  | notACommand
  deriving DecidableEq, Repr

end Sys2Proof
end

