-- ==== Sys2Proof/Machine/State.lean ====
section
/-! DEFINITION. The state: the five registers of CRCV, which are the whole architectural state of the block
(spec/10_state.md R10), and three fields of the model's own that hold what passes through the ports; the reset state. -/

namespace Sys2Proof.Machine

/-- The registers of the CRC validator (R10): 27 bits at the default GIDX_W. -/
structure Crcv where
  /-- CRC: the CRC of the data bytes of the current group taken so far (R11). -/
  crc : Byte
  /-- POS: how many bytes of the current group have been taken, 0, 1 or 2 (R12). DESIGN CHOICE (log 6): three values. -/
  pos : Fin 3
  /-- GIDX: whole groups taken since the last VSTART or reset, saturating (R13). -/
  gidx : BitVec Config.gidxW
  /-- FAIL: some whole group of the buffer had a checksum byte that did not match (R14). -/
  fail : Bool
  /-- FGRP: the value GIDX had when FAIL went from 0 to 1 (R15). -/
  fgrp : BitVec Config.gidxW
  deriving DecidableEq, Repr

/-- What the environment does next at the block's ports. DESIGN CHOICE (log 1). -/
inductive PortEvent where
  /-- A rising edge of `clk` with these values of `rst`, `req_valid` and `req` (spec/70_reset_and_hazards.md R158). -/
  | edge (rst reqValid : Bool) (req : ReqWord)
  /-- The host hands two bytes to the bus collaborator as one 2-byte write (spec/41_command_encoder.md R90, R92). -/
  | handOver (first second : Byte)
  deriving DecidableEq, Repr

/-- The state of the block and of its ports. -/
structure State where
  /-- The architectural registers (R10). CENC has none (R80). -/
  crcv : Crcv
  /-- The port events still to come, next first. The model's own field (log 1). -/
  inputs : List PortEvent
  /-- The response given in the step just taken, if it answered a request (R45). The model's own field (log 2). -/
  rsp : Option Response
  /-- The 2-byte writes handed to the bus so far, oldest first (R90, R92). The model's own field (log 3). -/
  bus : List (List Byte)
  deriving DecidableEq, Repr

/-- There is no fault: no request traps, hangs or sticks (spec/60_exceptions.md R130;
spec/93_implementation_defined.md, end of part 1). The type is empty, so no step faults (log 14). -/
inductive Fault where
  deriving DecidableEq, Repr

/-- Why a step has no next state. -/
inductive Refusal where
  /-- Raised by `exec` for an instruction that has no meaning yet; no arm raises it. Safe. -/
  | notModelled (mnemonic : String)
  /-- Raised by `step` when two bytes are handed to the bus that are no command frame: the block never gives such a frame with
  status OK, and the spec says nothing of what a sensor does with it (R37, R159, U13; log 5). Safe. -/
  | notACommandFrame (first second : Byte)
  deriving DecidableEq, Repr

/-- The registers after reset (spec/10_state.md R19), which VSTART leaves too (R62). -/
def Crcv.reset : Crcv := { crc := Config.crcInit, pos := 0, gidx := 0, fail := false, fgrp := 0 }

/-- The machine right after reset: the registers as R19 says, nothing presented at the ports, no response given and nothing
handed to the bus. DESIGN CHOICE for the three fields of the model's own (log 18). -/
def State.reset : State := { crcv := Crcv.reset, inputs := [], rsp := none, bus := [] }

end Sys2Proof.Machine
end

