-- ==== Sys2Proof/Machine/Flags.lean ====
section
/-! DEFINITION. The one flag FAIL, the group counter and the first-failing-group register: what a checksum byte makes of them
(spec/10_state.md R13 to R15), and what VEND reads of them (spec/40_crc_validator.md R64). -/

namespace Sys2Proof.Machine

/-- `sat_inc(v)`: one more, but the top value stays (R13). -/
def satInc (v : BitVec Config.gidxW) : BitVec Config.gidxW :=
  if v.toNat < 2 ^ Config.gidxW - 1 then v + 1 else v

/-- FAIL after the checksum byte `b`: set by a mismatch, never cleared (R14, R63). -/
def failAfter (r : Crcv) (b : Byte) : Bool := r.fail || b != r.crc

/-- FGRP after the checksum byte `b`: GIDX before its increment, when FAIL goes from 0 to 1 (R15, R63). -/
def fgrpAfter (r : Crcv) (b : Byte) : BitVec Config.gidxW :=
  if b ≠ r.crc ∧ r.fail = false then r.gidx else r.fgrp

/-- The verdict VEND gives on whole groups: 1 exactly when FAIL is 0 (R64). -/
def verdict (r : Crcv) : Bool := !r.fail

end Sys2Proof.Machine
end

