-- ==== Sys2Proof/Machine/Operands.lean ====
section
/-! DEFINITION. The bit fields of the four formats (spec/30_encoding.md) and the operand forms: REQ11's operation and
argument, VBYTE's byte, ENC's selector; the command ROM, the two bytes of a frame, and the response word. -/

namespace Sys2Proof

/-- `op = req[10:8]` (R42). -/
def opField (w : ReqWord) : BitVec 3 := w.extractLsb' 8 3

/-- `arg = req[7:0]` (R42); VBYTE's operand as it stands (R44). -/
def argField (w : ReqWord) : Byte := w.extractLsb' 0 8

/-- `sel = req[2:0]`, ENC's operand (R44). -/
def selField (w : ReqWord) : BitVec 3 := w.extractLsb' 0 3

/-- `arg[7:3]`, which must be 0 in an ENC word (R43). -/
def encReserved (w : ReqWord) : BitVec 5 := w.extractLsb' 3 5

/-- A request word from its two fields (R42). -/
def requestWord (op : BitVec 3) (arg : Byte) : ReqWord := op ++ arg

/-- `command_of`: the command a selector names; 6 and 7 name none (R44). -/
def commandOf (sel : BitVec 3) : Option Command :=
  match sel.toNat with
  | 0 => some .wakeup
  | 1 => some .reset
  | 2 => some .sleep
  | 3 => some .readId
  | 4 => some .measureNormal
  | 5 => some .measureLowPower
  | _ => none

/-- The selector of a command (R44). -/
def selectorOf : Command → BitVec 3
  | .wakeup => 0#3
  | .reset => 1#3
  | .sleep => 2#3
  | .readId => 3#3
  | .measureNormal => 4#3
  | .measureLowPower => 5#3

/-- `opcode(cmd)`: the command ROM (spec/41_command_encoder.md R81; spec/20_memory.md R23). -/
def opcode : Command → CmdWord
  | .wakeup => 0x3517#16
  | .reset => 0x805D#16
  | .sleep => 0xB098#16
  | .readId => 0xEFC8#16
  | .measureNormal => 0x58E0#16
  | .measureLowPower => 0x401A#16

/-- The command a 16-bit word is, if it is one; the whole word is compared (R36, R37). -/
def commandOfOpcode (w : CmdWord) : Option Command :=
  if w = 0x3517#16 then some .wakeup
  else if w = 0x805D#16 then some .reset
  else if w = 0xB098#16 then some .sleep
  else if w = 0xEFC8#16 then some .readId
  else if w = 0x58E0#16 then some .measureNormal
  else if w = 0x401A#16 then some .measureLowPower
  else none

/-- The request form that encodes a command (R44, R84 to R89). -/
def encForm : Command → Instr
  | .wakeup => .encWakeup
  | .reset => .encReset
  | .sleep => .encSleep
  | .readId => .encReadid
  | .measureNormal => .encMeasn
  | .measureLowPower => .encMeaslp

/-- The command on the wire (R36). -/
def cmdForm : Command → Instr
  | .wakeup => .cmdWakeup
  | .reset => .cmdReset
  | .sleep => .cmdSleep
  | .readId => .cmdReadid
  | .measureNormal => .cmdMeasn
  | .measureLowPower => .cmdMeaslp

/-- The first byte of a frame on the bus, `w[15:8]` (spec/20_memory.md R24). -/
def highByte (w : CmdWord) : Byte := w.extractLsb' 8 8

/-- The second byte of a frame on the bus, `w[7:0]` (R24). -/
def lowByte (w : CmdWord) : Byte := w.extractLsb' 0 8

/-- `frame16(w)`: the two bytes of a word, the more significant first (R82). -/
def frame16 (w : CmdWord) : List Byte := [highByte w, lowByte w]

/-- The 16-bit word of two bytes, the first the more significant: a frame read back (R82), and the data word of a group
(spec/20_memory.md R25). -/
def wordOfBytes (first second : Byte) : CmdWord := first ++ second

/-- The code of a status, `rsp[18:17]` (R131). -/
def Status.code : Status → BitVec 2
  | .ok => 0#2
  | .errOp => 1#2
  | .errArg => 2#2
  | .errLen => 3#2

/-- The response word, `rsp = status ++ result ++ frame` (R45). -/
def Response.toWord (r : Response) : RspWord := r.status.code ++ (BitVec.ofBool r.result ++ r.frame)

end Sys2Proof
end

