-- ==== Sys2Proof/Machine/Ops.lean ====
section
/-! DEFINITION. The shared operations: answering a request, refusing one (the block's only exception, spec/60_exceptions.md
R130 to R132; it saves nothing and there is no return from it, R136, R137), the three ways the registers change, handing a
frame to the bus, and the observation outputs. -/

namespace Sys2Proof.Machine

/-- `respond(status, result, frame)` (spec/30_encoding.md R45): the response of this request. -/
def State.respond (s : State) (st : Status) (result : Bool) (frame : CmdWord) : State :=
  { s with rsp := some { status := st, result := result, frame := frame } }

/-- Refuse a request: status `st`, result 0, frame 0x0000, and no register changes (R131, R132). -/
def State.refuse (s : State) (st : Status) : State := s.respond st false 0#16

/-- A step that answers no request gives no response (log 2). -/
def State.silent (s : State) : State := { s with rsp := none }

/-- Write all five registers. -/
def State.setCrcv (s : State) (r : Crcv) : State := { s with crcv := r }

/-- Take a data byte: CRC and POS move on (R63, POS 0 or 1). -/
def Crcv.takeData (r : Crcv) (b : Byte) : Crcv :=
  { r with crc := crc8Byte r.crc b, pos := r.pos + 1 }

/-- Take the checksum byte: compare it, count the group, make ready for the next (R63, POS 2). All right sides read the
registers before the request. -/
def Crcv.takeChecksum (r : Crcv) (b : Byte) : Crcv :=
  { crc := Config.crcInit
    pos := 0
    gidx := satInc r.gidx
    fail := failAfter r b
    fgrp := fgrpAfter r b }

/-- Take the next byte of the buffer (R63). -/
def Crcv.take (r : Crcv) (b : Byte) : Crcv :=
  if r.pos = 2 then r.takeChecksum b else r.takeData b

/-- The offset in the buffer of the next byte, while GIDX has not saturated (spec/10_state.md R18). -/
def Crcv.offset (r : Crcv) : Nat := Config.groupLen * r.gidx.toNat + r.pos.val

/-- The block's reset (spec/70_reset_and_hazards.md R150): the registers take their reset values, no response is given. What
the environment will do and what it has put on the bus are not the block's and stay (log 8). -/
def State.applyReset (s : State) : State := (s.setCrcv Crcv.reset).silent

/-- Answer an ENC request: the command's opcode as the frame, status OK, result 0 (spec/41_command_encoder.md R83). -/
def State.answerFrame (s : State) (c : Command) : State := s.respond .ok false (opcode c)

/-- One bus write of exactly the two bytes of a command frame, the more significant first (R90, R92). No register changes and
no request is answered (log 3). -/
def State.busWrite (s : State) (c : Command) : State :=
  ({ s with bus := s.bus ++ [frame16 (opcode c)] }).silent

/-- The observation outputs (spec/10_state.md R16; spec/70_reset_and_hazards.md R158). -/
structure Observation where
  oCrc : BitVec 8
  oPos : BitVec 2
  oGidx : BitVec Config.gidxW
  oFail : BitVec 1
  oFgrp : BitVec Config.gidxW
  deriving DecidableEq, Repr

/-- The observation outputs show the registers' present values; observing is no request and changes nothing (R16). -/
def State.observe (s : State) : Observation :=
  { oCrc := s.crcv.crc
    oPos := BitVec.ofNat 2 s.crcv.pos.val
    oGidx := s.crcv.gidx
    oFail := BitVec.ofBool s.crcv.fail
    oFgrp := s.crcv.fgrp }

/-- The response word of the step just taken, if there is one (R45, R158). -/
def State.rspWord (s : State) : Option RspWord := s.rsp.map Response.toWord

end Sys2Proof.Machine
end

