-- ==== Sys2Proof/Machine/Cenc.lean ====
section
/-! DEFINITION. The meanings of the command encoder's six requests (spec/41_command_encoder.md R80, R83 to R89): each answers
its command's opcode and writes no register. -/

namespace Sys2Proof.Machine

/-- `ENC WAKEUP` (R84). -/
def execEncWakeup (s : State) : Host.Outcome State Fault Refusal := .next (s.answerFrame .wakeup)

/-- `ENC RESET` (R85): it encodes the sensor's Reset command and does not reset the block (R151). -/
def execEncReset (s : State) : Host.Outcome State Fault Refusal := .next (s.answerFrame .reset)

/-- `ENC SLEEP` (R86). -/
def execEncSleep (s : State) : Host.Outcome State Fault Refusal := .next (s.answerFrame .sleep)

/-- `ENC READID` (R87). -/
def execEncReadid (s : State) : Host.Outcome State Fault Refusal := .next (s.answerFrame .readId)

/-- `ENC MEASN` (R88). -/
def execEncMeasn (s : State) : Host.Outcome State Fault Refusal := .next (s.answerFrame .measureNormal)

/-- `ENC MEASLP` (R89). -/
def execEncMeaslp (s : State) : Host.Outcome State Fault Refusal := .next (s.answerFrame .measureLowPower)

end Sys2Proof.Machine
end

