-- ==== Sys2Proof/Machine/Crcv.lean ====
section
/-! DEFINITION. The meanings of the CRC validator's requests: VSTART, VBYTE, VEND (spec/40_crc_validator.md R62 to R64). A
word of theirs with a reserved argument is no instruction: the decoder rejects it and the step refuses it (R47). -/

namespace Sys2Proof.Machine

/-- `VSTART` (R62). -/
def execVstart (s : State) : Host.Outcome State Fault Refusal :=
  .next ((s.setCrcv Crcv.reset).respond .ok false 0#16)

/-- `VBYTE byte` (R63): accepted in every state. -/
def execVbyte (b : Byte) (s : State) : Host.Outcome State Fault Refusal :=
  .next ((s.setCrcv (s.crcv.take b)).respond .ok false 0#16)

/-- `VEND` (R64): ERR_LEN inside a group whatever FAIL is, else OK with the verdict; it writes no register. -/
def execVend (s : State) : Host.Outcome State Fault Refusal :=
  .next (if s.crcv.pos = 0 then s.respond .ok (verdict s.crcv) 0#16 else s.refuse .errLen)

end Sys2Proof.Machine
end

