-- ==== Sys2Proof/Machine/Wire.lean ====
section
/-! DEFINITION. The meanings of the six wire rows (spec/opcode_table.json, format CMD16). Such a word is no request to the
block; what the spec says becomes of it is one bus write of exactly its two bytes, the more significant first
(spec/41_command_encoder.md R90, R92; spec/20_memory.md R24). DESIGN CHOICE (log 3). The acknowledge, the lock bracket, the
device address and what the sensor then does are not in the block (log 4). -/

namespace Sys2Proof.Machine

/-- Wakeup, bytes 0x35, 0x17 (R36). -/
def execCmdWakeup (s : State) : Host.Outcome State Fault Refusal := .next (s.busWrite .wakeup)

/-- Reset, bytes 0x80, 0x5D (R36). -/
def execCmdReset (s : State) : Host.Outcome State Fault Refusal := .next (s.busWrite .reset)

/-- Sleep, bytes 0xB0, 0x98 (R36). -/
def execCmdSleep (s : State) : Host.Outcome State Fault Refusal := .next (s.busWrite .sleep)

/-- ReadID, bytes 0xEF, 0xC8 (R36). -/
def execCmdReadid (s : State) : Host.Outcome State Fault Refusal := .next (s.busWrite .readId)

/-- MeasureNormal, bytes 0x58, 0xE0 (R36). -/
def execCmdMeasn (s : State) : Host.Outcome State Fault Refusal := .next (s.busWrite .measureNormal)

/-- MeasureLowPower, bytes 0x40, 0x1A (R36). -/
def execCmdMeaslp (s : State) : Host.Outcome State Fault Refusal := .next (s.busWrite .measureLowPower)

end Sys2Proof.Machine
end

