-- ==== Sys2Proof/Machine/Dispatch.lean ====
section
/-! DEFINITION. What each instruction does: one arm per constructor of Instr, one call of its meaning. -/

namespace Sys2Proof.Machine

def exec (i : Instr) (s : State) : Host.Outcome State Fault Refusal :=
  match i with
  | .vstart => Sys2Proof.Machine.execVstart s
  | .vbyte b => Sys2Proof.Machine.execVbyte b s
  | .vend => Sys2Proof.Machine.execVend s
  | .encWakeup => Sys2Proof.Machine.execEncWakeup s
  | .encReset => Sys2Proof.Machine.execEncReset s
  | .encSleep => Sys2Proof.Machine.execEncSleep s
  | .encReadid => Sys2Proof.Machine.execEncReadid s
  | .encMeasn => Sys2Proof.Machine.execEncMeasn s
  | .encMeaslp => Sys2Proof.Machine.execEncMeaslp s
  | .cmdWakeup => Sys2Proof.Machine.execCmdWakeup s
  | .cmdReset => Sys2Proof.Machine.execCmdReset s
  | .cmdSleep => Sys2Proof.Machine.execCmdSleep s
  | .cmdReadid => Sys2Proof.Machine.execCmdReadid s
  | .cmdMeasn => Sys2Proof.Machine.execCmdMeasn s
  | .cmdMeaslp => Sys2Proof.Machine.execCmdMeaslp s

end Sys2Proof.Machine
end

