-- ==== Sys2Proof/WellFormed.lean ====
section
/-! DEFINITION. Which words are well formed, said by the table's mask and match (spec/30_encoding.md R43, R36) and
independently of the decoder: a request word that matches one of the nine request rows, a 16-bit word that is one of the six
command words. -/

namespace Sys2Proof

/-- One row of the opcode table: a word `w` of `width` bits matches it when `w & mask = pattern`. -/
structure TableRow where
  mnemonic : String
  width : Nat
  pattern : Nat
  mask : Nat
  deriving DecidableEq, Repr

/-- The mnemonic of an instruction's row of spec/opcode_table.json. -/
def Instr.mnemonic : Instr → String
  | .vstart => "VSTART"
  | .vbyte _ => "VBYTE"
  | .vend => "VEND"
  | .encWakeup => "ENC.WAKEUP"
  | .encReset => "ENC.RESET"
  | .encSleep => "ENC.SLEEP"
  | .encReadid => "ENC.READID"
  | .encMeasn => "ENC.MEASN"
  | .encMeaslp => "ENC.MEASLP"
  | .cmdWakeup => "CMD.WAKEUP"
  | .cmdReset => "CMD.RESET"
  | .cmdSleep => "CMD.SLEEP"
  | .cmdReadid => "CMD.READID"
  | .cmdMeasn => "CMD.MEASN"
  | .cmdMeaslp => "CMD.MEASLP"

/-- The nine request rows of spec/opcode_table.json (R43). -/
def requestRows : List TableRow :=
  [⟨"VSTART", 11, 0x000, 0x7FF⟩, ⟨"VBYTE", 11, 0x100, 0x700⟩, ⟨"VEND", 11, 0x200, 0x7FF⟩,
   ⟨"ENC.WAKEUP", 11, 0x300, 0x7FF⟩, ⟨"ENC.RESET", 11, 0x301, 0x7FF⟩, ⟨"ENC.SLEEP", 11, 0x302, 0x7FF⟩,
   ⟨"ENC.READID", 11, 0x303, 0x7FF⟩, ⟨"ENC.MEASN", 11, 0x304, 0x7FF⟩, ⟨"ENC.MEASLP", 11, 0x305, 0x7FF⟩]

/-- The six wire rows of spec/opcode_table.json (R36, R81). -/
def frameRows : List TableRow :=
  [⟨"CMD.WAKEUP", 16, 0x3517, 0xFFFF⟩, ⟨"CMD.RESET", 16, 0x805D, 0xFFFF⟩, ⟨"CMD.SLEEP", 16, 0xB098, 0xFFFF⟩,
   ⟨"CMD.READID", 16, 0xEFC8, 0xFFFF⟩, ⟨"CMD.MEASN", 16, 0x58E0, 0xFFFF⟩, ⟨"CMD.MEASLP", 16, 0x401A, 0xFFFF⟩]

/-- `(w & mask) = match` (R43). -/
def TableRow.accepts (r : TableRow) (w : Nat) : Bool := w &&& r.mask == r.pattern

/-- The rows a word matches, in the table's order. -/
def CodeWord.rows : CodeWord → List TableRow
  | .request w => requestRows.filter (·.accepts w.toNat)
  | .frame w => frameRows.filter (·.accepts w.toNat)

/-- The operation of a request word exists: `op` is 0 to 3 (R131, ERR_OP otherwise). -/
def opExists (w : ReqWord) : Bool := (opField w).toNat < 4

/-- The argument of a request word whose operation exists is not reserved (R131, ERR_ARG otherwise). -/
def argAllowed (w : ReqWord) : Bool :=
  match (opField w).toNat with
  | 0 => argField w == 0#8
  | 1 => true
  | 2 => argField w == 0#8
  | _ => encReserved w == 0#5 && (selField w).toNat < 6

/-- A word is well formed when it matches a row of its format (R43, R36). -/
def CodeWord.wellFormed (c : CodeWord) : Bool := !c.rows.isEmpty

end Sys2Proof
end

