-- ==== Sys2Proof/Decode.lean ====
section
/-! DEFINITION. Decoding of request words (spec/30_encoding.md R42 to R44, R47; priority of rejections spec/60_exceptions.md
R134) and of command words (R36, R37), total on every word, and the encoder, written from the same tables. -/

namespace Sys2Proof

/-- The instruction of an 11-bit request word, or the status it is refused with: first the operation, then the argument
(R43, R47, R134). -/
def decodeRequest (w : ReqWord) : Except Status Instr :=
  match (opField w).toNat with
  | 0 => if argField w = 0#8 then .ok .vstart else .error .errArg
  | 1 => .ok (.vbyte (argField w))
  | 2 => if argField w = 0#8 then .ok .vend else .error .errArg
  | 3 =>
    if encReserved w = 0#5 then
      match commandOf (selField w) with
      | some c => .ok (encForm c)
      | none => .error .errArg
    else .error .errArg
  | _ => .error .errOp

/-- The command a 16-bit word carries on the wire, if any (R36, R37). -/
def decodeFrame (w : CmdWord) : Option Instr := (commandOfOpcode w).map cmdForm

/-- The decoder: total, rejecting by name. -/
def decode : CodeWord → Except Reject Instr
  | .request w =>
    match decodeRequest w with
    | .ok i => .ok i
    | .error st => .error (.reserved st)
  | .frame w =>
    match decodeFrame w with
    | some i => .ok i
    | none => .error .notACommand

/-- The encoder: the word of every instruction (R43 for requests, R36 for commands on the wire). -/
def encode : Instr → CodeWord
  | .vstart => .request (requestWord 0#3 0#8)
  | .vbyte b => .request (requestWord 1#3 b)
  | .vend => .request (requestWord 2#3 0#8)
  | .encWakeup => .request (requestWord 3#3 0#8)
  | .encReset => .request (requestWord 3#3 1#8)
  | .encSleep => .request (requestWord 3#3 2#8)
  | .encReadid => .request (requestWord 3#3 3#8)
  | .encMeasn => .request (requestWord 3#3 4#8)
  | .encMeaslp => .request (requestWord 3#3 5#8)
  | .cmdWakeup => .frame (opcode .wakeup)
  | .cmdReset => .frame (opcode .reset)
  | .cmdSleep => .frame (opcode .sleep)
  | .cmdReadid => .frame (opcode .readId)
  | .cmdMeasn => .frame (opcode .measureNormal)
  | .cmdMeaslp => .frame (opcode .measureLowPower)

/-- The word a number stands for when spec/opcode_table.json numbers its bits, `nbits` of them. A REQ11 word is below 2^11
and every command word is above it, so the number alone says which format it is. DESIGN CHOICE (log 10). -/
def tableCodeWord (nbits w : Nat) : Option CodeWord :=
  let v := w % 2 ^ nbits
  if v < 2 ^ 11 then some (.request (BitVec.ofNat 11 v))
  else if v < 2 ^ 16 then some (.frame (BitVec.ofNat 16 v))
  else none

/-- The instruction the decoder reads from a word numbered as spec/opcode_table.json numbers it. -/
def decodeTableWord (nbits w : Nat) : Option Instr :=
  match tableCodeWord nbits w with
  | some c =>
    match decode c with
    | .ok i => some i
    | .error _ => none
  | none => none

end Sys2Proof
end

