-- ==== Sys2Proof/Machine/Fetch.lean ====
section
/-! DEFINITION. What the next step is about: the next port event, decoded (spec/70_reset_and_hazards.md R150, R158;
spec/60_exceptions.md R134), and how one word comes to be presented next. The block fetches nothing itself (R18). -/

namespace Sys2Proof.Machine

/-- What the next step does. -/
inductive Task where
  /-- No request: `req_valid` is 0, or nothing is presented. -/
  | idle
  /-- `rst` is asserted. -/
  | reset
  /-- A reserved request word, with the status it is refused with. -/
  | refuse (st : Status)
  /-- Two bytes for the bus that are no command frame. -/
  | stray (first second : Byte)
  /-- An instruction. -/
  | run (i : Instr)
  deriving DecidableEq, Repr

/-- The task of one port event: reset before any request (R150), no request when `req_valid` is 0 (R158). -/
def taskOf : PortEvent → Task
  | .edge true _ _ => .reset
  | .edge false false _ => .idle
  | .edge false true w =>
    match decodeRequest w with
    | .ok i => .run i
    | .error st => .refuse st
  | .handOver b0 b1 =>
    match decodeFrame (wordOfBytes b0 b1) with
    | some i => .run i
    | none => .stray b0 b1

/-- The task of the next step: of the next port event, or none when the environment presents nothing (log 1). -/
def State.task (s : State) : Task :=
  match s.inputs with
  | [] => .idle
  | e :: _ => taskOf e

/-- The state with the next port event taken. -/
def State.popInput (s : State) : State := { s with inputs := s.inputs.tail }

/-- The port event that presents a word: a request word at a clock edge with `rst` low and `req_valid` high, a command word as
the two bytes of `frame16` (R92). -/
def eventOf : CodeWord → PortEvent
  | .request w => .edge false true w
  | .frame w => .handOver (highByte w) (lowByte w)

/-- The state in which a word is presented next; all else stays (log 11). -/
def State.present (s : State) (c : CodeWord) : State := { s with inputs := eventOf c :: s.inputs }

/-- The state in which a word numbered as spec/opcode_table.json numbers it is presented next; a number of no format presents
nothing. -/
def State.presentTableWord (s : State) (nbits w : Nat) : State :=
  match tableCodeWord nbits w with
  | some c => s.present c
  | none => s

end Sys2Proof.Machine
end

