-- ==== Sys2Proof/Machine/Step.lean ====
section
/-! DEFINITION. One step: one rising clock edge at the block's ports, or one handing over of a frame to the bus
(spec/70_reset_and_hazards.md R150, R158; spec/20_memory.md R30). -/

namespace Sys2Proof.Machine

/-- One step. A reserved request word is refused in its response and the machine goes on (spec/60_exceptions.md R130 to
R132). -/
def step (s : State) : Host.Outcome State Fault Refusal :=
  match s.task with
  | .idle => .next s.popInput.silent
  | .reset => .next s.popInput.applyReset
  | .refuse st => .next (s.popInput.refuse st)
  | .stray b0 b1 => .refused (.notACommandFrame b0 b1)
  | .run i => exec i s.popInput

/-- `s` with the instruction word `w` presented next, so that the very next step runs it (log 11). -/
def State.withFetchWord (s : State) (nbits w : Nat) : State := s.presentTableWord nbits w

end Sys2Proof.Machine
end

