-- ==== Sys2Proof/Machine/Pseudo.lean ====
section
/-! DEFINITION. Programs: lists of instructions run in order (spec/30_encoding.md R49), the two pseudo-instructions VALIDATE
and SEND (R50), and the current buffer of a program (spec/20_memory.md R21). -/

namespace Sys2Proof.Machine

/-- Run a program, each instruction after the response to the one before (R49); it stops at the first stop. -/
def runProgram : List Instr → State → Host.Outcome State Fault Refusal
  | [], s => .next s
  | i :: p, s =>
    match exec i s with
    | .next t => runProgram p t
    | .fault f => .fault f
    | .refused r => .refused r

/-- `VALIDATE b0, ..., b(n-1)`: VSTART, one VBYTE per byte, VEND (R66). -/
def expandValidate (bytes : List Byte) : List Instr := .vstart :: bytes.map .vbyte ++ [.vend]

/-- `SEND cmd`: ENC, then the returned frame handed to the bus as one write (R90). Only the ENC is a request. -/
def expandSend (c : Command) : List Instr := [encForm c, cmdForm c]

/-- The only instructions that write a register of the block (spec/10_state.md R16). -/
def writesRegisters : Instr → Bool
  | .vstart | .vbyte _ => true
  | .vend | .encWakeup | .encReset | .encSleep | .encReadid | .encMeasn | .encMeaslp
  | .cmdWakeup | .cmdReset | .cmdSleep | .cmdReadid | .cmdMeasn | .cmdMeaslp => false

/-- The current buffer after one more instruction: VSTART begins a new one, VBYTE adds its byte (R21). -/
def bufferAfter (buffer : List Byte) : Instr → List Byte
  | .vstart => []
  | .vbyte b => buffer ++ [b]
  | .vend | .encWakeup | .encReset | .encSleep | .encReadid | .encMeasn | .encMeaslp
  | .cmdWakeup | .cmdReset | .cmdSleep | .cmdReadid | .cmdMeasn | .cmdMeaslp => buffer

/-- The current buffer of a program run from reset: the bytes pushed since its last VSTART, or since reset (R21). -/
def currentBuffer (p : List Instr) : List Byte := p.foldl bufferAfter []

/-- The registers that the rules give for a current buffer `s` (spec/40_crc_validator.md R65, derived there): a function of
the buffer alone. -/
def registersFor (s : List Byte) : Crcv :=
  let whole := s.length / Config.groupLen
  let top := 2 ^ Config.gidxW - 1
  { crc := crc8 (partialGroup s)
    pos := ⟨s.length % 3, Nat.mod_lt _ (by decide)⟩
    gidx := BitVec.ofNat Config.gidxW (min whole top)
    fail := (firstBadGroup s).isSome
    fgrp := BitVec.ofNat Config.gidxW (min ((firstBadGroup s).getD 0) top) }

/-- The response to a VEND on the current buffer `s` (R65, R66): ERR_LEN when `validate` is not defined, else its value. -/
def verdictResponse (s : List Byte) : Response :=
  match validate s with
  | some v => { status := .ok, result := v, frame := 0#16 }
  | none => { status := .errLen, result := false, frame := 0#16 }

end Sys2Proof.Machine
end

