-- ==== Sys2Proof/Machine/Driver.lean ====
section
/-! DEFINITION. The host's procedures around the block (spec/49_host_protocol.md), outside the block: nothing of the machine
depends on this file. They issue the block's instructions through `exec` and leave a trace of what they do at the bus and at
the delay primitives. What the bus answers is an argument; the parameters the spec leaves open stay parameters (log 15). -/

namespace Sys2Proof.Machine

/-- What the host does at its collaborators (R102, R105). -/
inductive HostEvent where
  | lock
  | unlock
  | busWrite (address : Byte) (bytes : List Byte) (acked : Bool)
  | busRead (address : Byte) (length : Nat) (acked : Bool)
  | delayMicros (n : Nat)
  | sleepMillis (n : Nat)
  deriving DecidableEq, Repr

/-- The host's error taxonomy (R116). -/
inductive HostError where
  | transportError | checksumError | timeoutError | protocolMismatchError
  deriving DecidableEq, Repr

/-- The bus's answer to a read of `n` bytes: the success flag and the buffer of exactly `n` bytes; after a NACK the buffer is
any bytes (R102, R104, U1). -/
structure ReadAnswer (n : Nat) where
  acked : Bool
  bytes : Vector Byte n
  deriving DecidableEq, Repr

/-- The block and the host's trace, oldest event first. -/
structure World where
  block : State
  trace : List HostEvent
  deriving DecidableEq, Repr

/-- The outcome of a procedure and what it leaves. -/
structure HostRun (α : Type) where
  outcome : Except HostError α
  world : World

/-- Run block instructions; the block never stops one of them. -/
def World.issue (w : World) (p : List Instr) : World :=
  match runProgram p w.block with
  | .next t => { w with block := t }
  | .fault _ => w
  | .refused _ => w

/-- Add events to the trace. -/
def World.log (w : World) (es : List HostEvent) : World := { w with trace := w.trace ++ es }

/-- `sendCommand(cmd)` (R101): encode the command, then one write of its frame's two bytes inside the lock bracket; the
answer is the acknowledge. Nothing is written when the block gives no frame (R91). -/
def sendCommand (hp : Config.HostParams) (c : Command) (acked : Bool) (w : World) : Bool × World :=
  let asked := w.issue [encForm c]
  match asked.block.rsp with
  | some r =>
    if r.status = .ok then
      (acked, (asked.issue [cmdForm c]).log [.lock, .busWrite hp.devAddr (frame16 r.frame) acked, .unlock])
    else (false, asked)
  | none => (false, asked)

/-- `readResponse(length)` (R104): one read of `length` bytes inside the lock bracket. It returns the success flag and the
buffer of that length; the caller must not trust the buffer when the flag is false. -/
def readResponse (hp : Config.HostParams) (length : Nat) (a : ReadAnswer length) (w : World) : ReadAnswer length × World :=
  (a, w.log [.lock, .busRead hp.devAddr length a.acked, .unlock])

/-- The CRC check of a buffer by the block: VALIDATE, passed exactly on status OK with result 1 (R109). The host checks only
buffers of 3 and of 6 bytes, on which the block answers OK, so that a check that fails is a response OK with result 0
(R116, R133). -/
def crcPasses (bytes : List Byte) (w : World) : Bool × World :=
  let asked := w.issue (expandValidate bytes)
  (asked.block.rsp == some { status := .ok, result := true, frame := 0#16 }, asked)

/-- The polling loop of step 3 (R108), over the bus's answers to all its attempts: a failed attempt waits 1 ms before the
next. -/
def pollMeasurement (hp : Config.HostParams) : List (ReadAnswer 6) → World → Option (Vector Byte 6) × World
  | [], w => (none, w)
  | a :: as, w =>
    match readResponse hp 6 a w with
    | (r, w1) =>
      if r.acked then (some r.bytes, w1)
      else pollMeasurement hp as (if as.isEmpty then w1 else w1.log [.sleepMillis 1])

/-- Step 5: humidity from bytes 0 and 1, temperature from bytes 3 and 4, big-endian (R110). -/
def decodeMeasurement (bytes : Vector Byte 6) : BitVec 16 × BitVec 16 :=
  (dataWord bytes[0] bytes[1], dataWord bytes[3] bytes[4])

/-- What the bus answers in one cycle of `read`: one answer for each of the POLL_MAX attempts that may be made (R108). -/
structure CycleAnswers (pollMax : Nat) where
  wakeAck : Bool
  measureAck : Bool
  polls : Vector (ReadAnswer 6) pollMax
  sleepAck : Bool
  deriving DecidableEq, Repr

/-- Steps 4 and 5: the block checks both groups of the answer, and only then is it decoded (R109, R110). -/
def judgeAnswer (bytes : Vector Byte 6) (w : World) : HostRun (BitVec 16 × BitVec 16) :=
  match crcPasses bytes.toList w with
  | (false, w1) => { outcome := .error .checksumError, world := w1 }
  | (true, w1) => { outcome := .ok (decodeMeasurement bytes), world := w1 }

/-- Steps 2 to 5 of `read(lowPower)`, from the state after an acknowledged Wakeup (R107 to R110). -/
def measureSteps (hp : Config.HostParams) (lowPower : Bool) (a : CycleAnswers hp.pollMax) (w : World) :
    HostRun (BitVec 16 × BitVec 16) :=
  match sendCommand hp (if lowPower then .measureLowPower else .measureNormal) a.measureAck (w.log [.delayMicros 240]) with
  | (false, w1) => { outcome := .error .transportError, world := w1 }
  | (true, w1) =>
    match pollMeasurement hp a.polls.toList (if lowPower then w1 else w1.log [.sleepMillis 10]) with
    | (none, w2) => { outcome := .error .timeoutError, world := w2 }
    | (some bytes, w2) => judgeAnswer bytes w2

/-- `read(lowPower)` (R106 to R111): no Sleep when the Wakeup is not acknowledged (C3), and otherwise exactly one at the end,
whose acknowledge does not change the outcome. -/
def readCycle (hp : Config.HostParams) (lowPower : Bool) (a : CycleAnswers hp.pollMax) (w : World) :
    HostRun (BitVec 16 × BitVec 16) :=
  match sendCommand hp .wakeup a.wakeAck w with
  | (false, w1) => { outcome := .error .transportError, world := w1 }
  | (true, w1) =>
    let run := measureSteps hp lowPower a w1
    { outcome := run.outcome, world := (sendCommand hp .sleep a.sleepAck run.world).2 }

/-- The two fixed bit-fields of the ID word: bit 3 of the high byte, the low 6 bits of byte 1 (R112). -/
def idMatches (hp : Config.HostParams) (bytes : Vector Byte 3) : Bool :=
  bytes[0].getLsbD 3 && bytes[1].extractLsb' 0 6 == hp.idFamilyCode

/-- What the bus answers during `init`. -/
structure InitAnswers where
  wakeAck : Bool
  readIdAck : Bool
  id : ReadAnswer 3
  sleepAck : Bool
  deriving DecidableEq, Repr

/-- `init` (R112): a failing step ends it where it is, with no Sleep (C4). -/
def initDevice (hp : Config.HostParams) (a : InitAnswers) (w : World) : HostRun Unit :=
  match sendCommand hp .wakeup a.wakeAck w with
  | (false, w1) => { outcome := .error .transportError, world := w1 }
  | (true, w1) =>
    match sendCommand hp .readId a.readIdAck (w1.log [.delayMicros 240]) with
    | (false, w2) => { outcome := .error .transportError, world := w2 }
    | (true, w2) =>
      match readResponse hp 3 a.id w2 with
      | (r, w3) =>
        if r.acked then
          match crcPasses r.bytes.toList w3 with
          | (false, w4) => { outcome := .error .checksumError, world := w4 }
          | (true, w4) =>
            if idMatches hp r.bytes then
              match sendCommand hp .sleep a.sleepAck w4 with
              | (true, w5) => { outcome := .ok (), world := w5 }
              | (false, w5) => { outcome := .error .transportError, world := w5 }
            else { outcome := .error .protocolMismatchError, world := w4 }
        else { outcome := .error .transportError, world := w3 }

/-- `reset()` (R113): send the sensor's Reset command and wait 240 microseconds; nothing is read. A write that is not
acknowledged is surfaced as a transport error (R116), after the same wait (log 15). -/
def resetDevice (hp : Config.HostParams) (acked : Bool) (w : World) : HostRun Unit :=
  match sendCommand hp .reset acked w with
  | (true, w1) => { outcome := .ok (), world := w1.log [.delayMicros 240] }
  | (false, w1) => { outcome := .error .transportError, world := w1.log [.delayMicros 240] }

end Sys2Proof.Machine

namespace Sys2Proof

/-- A literal of the program in the format. -/
def Config.FloatFormat.lit (f : Config.FloatFormat) (n : Nat) : Rat := f.round n

/-- The format's addition. -/
def Config.FloatFormat.add (f : Config.FloatFormat) (a b : Rat) : Rat := f.round (a + b)

/-- The format's subtraction. -/
def Config.FloatFormat.sub (f : Config.FloatFormat) (a b : Rat) : Rat := f.round (a - b)

/-- The format's multiplication. -/
def Config.FloatFormat.mul (f : Config.FloatFormat) (a b : Rat) : Rat := f.round (a * b)

/-- The format's division. -/
def Config.FloatFormat.div (f : Config.FloatFormat) (a b : Rat) : Rat := f.round (a / b)

end Sys2Proof

namespace Sys2Proof.Machine

/-- Celsius = 175 × (raw / 65535) − 45, in the format `f` (R114, C1, U5; log 16). -/
def toCelsius (f : Config.FloatFormat) (raw : BitVec 16) : Rat :=
  f.sub (f.mul (f.lit 175) (f.div (f.lit raw.toNat) (f.lit 65535))) (f.lit 45)

/-- Fahrenheit = Celsius × 9/5 + 32, in the format `f` (R114). -/
def toFahrenheit (f : Config.FloatFormat) (raw : BitVec 16) : Rat :=
  f.add (f.div (f.mul (toCelsius f raw) (f.lit 9)) (f.lit 5)) (f.lit 32)

/-- Relative humidity % = 100 × (raw / 65535), in the format `f` (R114). -/
def toPercentage (f : Config.FloatFormat) (raw : BitVec 16) : Rat :=
  f.mul (f.lit 100) (f.div (f.lit raw.toNat) (f.lit 65535))

end Sys2Proof.Machine
end

