-- ==== Sys2Proof/Safety.lean ====
section
/-! DEFINITION. What counts as a safe state and a safe run: the invariants of spec/10_state.md section 5, what may stand on the
bus, and the host's duties towards the block (spec/70_reset_and_hazards.md R153 to R159; spec/49_host_protocol.md R120). -/

namespace Sys2Proof

/-- What a response may hold (R45, R159): one that refuses carries nothing; a frame that is not 0x0000 is a command's opcode;
none carries both a true result and a frame. -/
def Response.Clean (r : Response) : Prop :=
  (r.status ≠ .ok → r.result = false ∧ r.frame = 0#16) ∧
  (r.frame = 0#16 ∨ ∃ c, r.frame = opcode c) ∧
  (r.result = true → r.frame = 0#16)

/-- A frame may be used: the response's status is OK and it answers an ENC, that is, its frame is a command (R159). -/
def Response.frameUsable (r : Response) : Bool := r.status == .ok && (commandOfOpcode r.frame).isSome

end Sys2Proof

namespace Sys2Proof.Machine

/-- The invariants I-2 to I-4 of the registers (spec/10_state.md section 5; I-1 holds by the type of POS). -/
structure Crcv.Inv (r : Crcv) : Prop where
  /-- I-2: between groups CRC holds its initial value. -/
  betweenGroups : r.pos = 0 → r.crc = Config.crcInit
  /-- I-3: while FAIL is 0, FGRP reads 0. -/
  noFailNoGroup : r.fail = false → r.fgrp = 0
  /-- I-4: the failing group's index is at most GIDX. -/
  failedBefore : r.fail = true → r.fgrp.toNat ≤ r.gidx.toNat
  /-- I-4: and below it, unless both are at the top. -/
  failedStrictly : r.fail = true →
    r.fgrp.toNat < r.gidx.toNat ∨ (r.fgrp.toNat = 2 ^ Config.gidxW - 1 ∧ r.gidx.toNat = 2 ^ Config.gidxW - 1)

/-- Every write on the bus is the 2-byte frame of one of the six commands (R28, R37, R91). -/
def State.BusCarriesCommands (s : State) : Prop := ∀ f ∈ s.bus, ∃ c, f = frame16 (opcode c)

/-- The invariant of the whole state. -/
structure State.Inv (s : State) : Prop where
  registers : s.crcv.Inv
  bus : s.BusCarriesCommands
  response : ∀ r, s.rsp = some r → r.Clean

/-- The data of the buffer just ended may be used: status OK with result 1, which only a VEND gives (R154). -/
def State.dataTrusted (s : State) : Bool :=
  match s.rsp with
  | some r => r.status == .ok && r.result
  | none => false

/-- The buffers of a whole program are begun and pushed as R120 and R153 ask. `n` counts the bytes of the current buffer. Each
buffer is a multiple of 3 in all: when VEND, the next VSTART or the program's end comes, no group is unfinished. Each buffer
but the first after reset begins with VSTART: after a VEND, no VBYTE comes before the next VSTART; `ended` says so.
DESIGN CHOICE (log 20): a VEND is taken as the end of its buffer, though R64 lets a VBYTE after it go on with the same
buffer and the spec does not say whether such an interim VEND breaks the duty. -/
def buffersBegun (n : Nat) (ended : Bool) : List Instr → Bool
  | [] => n % Config.groupLen == 0
  | .vstart :: p => n % Config.groupLen == 0 && buffersBegun 0 false p
  | .vbyte _ :: p => !ended && buffersBegun (n + 1) ended p
  | .vend :: p => n % Config.groupLen == 0 && buffersBegun n true p
  | .encWakeup :: p | .encReset :: p | .encSleep :: p | .encReadid :: p | .encMeasn :: p | .encMeaslp :: p
  | .cmdWakeup :: p | .cmdReset :: p | .cmdSleep :: p | .cmdReadid :: p | .cmdMeasn :: p | .cmdMeaslp :: p =>
    buffersBegun n ended p

/-- Nothing is handed to the bus but a frame that an ENC of the program has returned, with status OK (R91, R120, R159).
`returned` holds the commands whose frames have been returned. DESIGN CHOICE (log 19): other instructions may come between
the ENC and the write of its frame, and a returned frame may be written again; R90, R91, R120 and R159 do not say. -/
def framesFollowTheirEnc (returned : List Command) : List Instr → Bool
  | [] => true
  | .encWakeup :: p => framesFollowTheirEnc (.wakeup :: returned) p
  | .encReset :: p => framesFollowTheirEnc (.reset :: returned) p
  | .encSleep :: p => framesFollowTheirEnc (.sleep :: returned) p
  | .encReadid :: p => framesFollowTheirEnc (.readId :: returned) p
  | .encMeasn :: p => framesFollowTheirEnc (.measureNormal :: returned) p
  | .encMeaslp :: p => framesFollowTheirEnc (.measureLowPower :: returned) p
  | .cmdWakeup :: p => returned.contains .wakeup && framesFollowTheirEnc returned p
  | .cmdReset :: p => returned.contains .reset && framesFollowTheirEnc returned p
  | .cmdSleep :: p => returned.contains .sleep && framesFollowTheirEnc returned p
  | .cmdReadid :: p => returned.contains .readId && framesFollowTheirEnc returned p
  | .cmdMeasn :: p => returned.contains .measureNormal && framesFollowTheirEnc returned p
  | .cmdMeaslp :: p => returned.contains .measureLowPower && framesFollowTheirEnc returned p
  | .vstart :: p | .vbyte _ :: p | .vend :: p => framesFollowTheirEnc returned p

/-- A whole program, run from reset, keeps the duties of R120 that a list of instructions can show: VSTART before each buffer,
a multiple of 3 bytes in each, nothing written to the bus but a returned frame. That requests come one at a time is the form
of a program. The duties about a failed read, about data before a verdict and about a false verdict concern what the host
does with its own copy of the bytes: Machine/Driver.lean keeps them, and `State.dataTrusted` says when data may be used. -/
def hostKeepsDuties (p : List Instr) : Bool := buffersBegun 0 false p && framesFollowTheirEnc [] p

end Sys2Proof.Machine
end

