-- ==== Sys2Proof/Certificates/Slice0/Obligations.lean ====
section
/-! DEFINITION. The statements for the provers, one definition each; OBLIGATIONS.json lists them. A clause about `inputs`, `bus`
or an absent response (`rsp = none`) is about the model's own fields (log 1, log 2, log 3), not about a register of the
block. -/

open Sys2Proof Sys2Proof.Machine

/-! ### Encoding -/

/-- Decode and encode agree on every instruction and every operand byte. -/
def Obligations.DecodeOfEncodeIsTheInstruction : Prop := ∀ i : Instr, decode (encode i) = .ok i

/-- Each word has one meaning: what decodes to `i` is the word of `i`. -/
def Obligations.EncodeOfDecodeIsTheWord : Prop := ∀ (c : CodeWord) (i : Instr), decode c = .ok i → encode i = c

/-- R43: a request word is accepted exactly when it matches a row by mask and match; the rows do not overlap; the instruction
is the row's; a word that matches no row is refused. -/
def Obligations.RequestIsAcceptedExactlyOnARow : Prop :=
  ∀ w : ReqWord,
    ((∃ i, decodeRequest w = .ok i) ↔ ∃ r ∈ requestRows, w.toNat &&& r.mask = r.pattern) ∧
    (∀ r ∈ requestRows, ∀ q ∈ requestRows,
      w.toNat &&& r.mask = r.pattern → w.toNat &&& q.mask = q.pattern → r = q) ∧
    (∀ i, decodeRequest w = .ok i → (CodeWord.request w).rows.map TableRow.mnemonic = [i.mnemonic]) ∧
    (∀ st, decodeRequest w = .error st → st ≠ .ok)

/-- R47: 264 of the 2048 words are accepted; the others fall in the rule's classes, and each is refused in a response with
result 0 and frame 0x0000 and with no register changed. -/
def Obligations.ReservedWordsAreRefusedByClass : Prop :=
  (∀ w : ReqWord,
    (decodeRequest w = .error .errOp ↔ 0x400 ≤ w.toNat) ∧
    (decodeRequest w = .error .errArg ↔
      (0x001 ≤ w.toNat ∧ w.toNat ≤ 0x0FF) ∨ (0x201 ≤ w.toNat ∧ w.toNat ≤ 0x2FF) ∨
      (0x306 ≤ w.toNat ∧ w.toNat ≤ 0x3FF)) ∧
    ((∃ i, decodeRequest w = .ok i) ↔
      w.toNat = 0x000 ∨ (0x100 ≤ w.toNat ∧ w.toNat ≤ 0x1FF) ∨ w.toNat = 0x200 ∨
      (0x300 ≤ w.toNat ∧ w.toNat ≤ 0x305))) ∧
  ((List.range 2048).countP fun n => (decodeRequest (BitVec.ofNat 11 n)).isOk) = 264 ∧
  (∀ (s : State) (w : ReqWord) (rest : List PortEvent) (st : Status), decodeRequest w = .error st →
    step { s with inputs := .edge false true w :: rest } =
      .next { s with inputs := rest, rsp := some ⟨st, false, 0#16⟩ })

/-- Words written out from the encoding tables decode to the instructions they stand for. -/
def Obligations.SpecWordsDecodeAsWritten : Prop :=
  decodeRequest 0b000_00000000#11 = .ok .vstart ∧ decodeRequest 0b001_10111110#11 = .ok (.vbyte 0xBE) ∧
  decodeRequest 0b010_00000000#11 = .ok .vend ∧ decodeRequest 0b011_00000_000#11 = .ok .encWakeup ∧
  decodeRequest 0b011_00000_101#11 = .ok .encMeaslp ∧ decodeFrame 0b0011_0101_0001_0111#16 = some .cmdWakeup ∧
  decodeFrame 0b1000_0000_0101_1101#16 = some .cmdReset ∧ decodeRequest 0b100_00000000#11 = .error .errOp ∧
  decodeRequest 0b011_00000_110#11 = .error .errArg

/-- R36, R37: exactly the six opcodes are commands; they differ pairwise, and so do their first bytes, so that a frame decodes
back to at most one command. -/
def Obligations.ExactlySixWordsAreCommands : Prop :=
  (∀ (w : CmdWord) (i : Instr), decodeFrame w = some i ↔ ∃ c, w = opcode c ∧ i = cmdForm c) ∧
  (∀ c d : Command, highByte (opcode c) = highByte (opcode d) → c = d) ∧
  (∀ w : CmdWord, decodeFrame w ≠ none ↔
    w = 0x3517#16 ∨ w = 0x805D#16 ∨ w = 0xB098#16 ∨ w = 0xEFC8#16 ∨ w = 0x58E0#16 ∨ w = 0x401A#16)

/-- R82: framing loses nothing, the more significant byte first. -/
def Obligations.FrameIsBigEndianAndLosesNothing : Prop :=
  (∀ w : CmdWord, frame16 w = [w.extractLsb' 8 8, w.extractLsb' 0 8]) ∧
  (∀ b0 b1 : Byte, frame16 (b0 ++ b1) = [b0, b1] ∧
    wordOfBytes b0 b1 = (b0.setWidth 16 <<< 8) ||| b1.setWidth 16)

/-- R45, R131: the fields of the response word and the codes of the status. -/
def Obligations.ResponseWordHasItsFields : Prop :=
  (∀ r : Response, r.toWord.extractLsb' 17 2 = r.status.code ∧ r.toWord.getLsbD 16 = r.result ∧
    r.toWord.extractLsb' 0 16 = r.frame) ∧
  Status.ok.code = 0 ∧ Status.errOp.code = 1 ∧ Status.errArg.code = 2 ∧ Status.errLen.code = 3

/-! ### Reset, ports and steps -/

/-- R19: the reset values of the five registers, which are what VSTART leaves from every state. -/
def Obligations.ResetRegistersAreTheVstartRegisters : Prop :=
  State.reset.crcv.crc = 0xFF#8 ∧ State.reset.crcv.pos = 0 ∧ State.reset.crcv.gidx = 0 ∧
  State.reset.crcv.fail = false ∧ State.reset.crcv.fgrp = 0 ∧
  ∀ s : State, ∃ t, exec .vstart s = .next t ∧ t.crcv = State.reset.crcv

/-- R150: an edge with `rst` asserted takes no request, gives no response and leaves the reset values, from every state. -/
def Obligations.ResetEdgeLeavesResetValues : Prop :=
  ∀ (s : State) (valid : Bool) (w : ReqWord) (rest : List PortEvent),
    step { s with inputs := .edge true valid w :: rest } =
      .next { crcv := { crc := 0xFF#8, pos := 0, gidx := 0, fail := false, fgrp := 0 }
              inputs := rest, rsp := none, bus := s.bus }

/-- R158: an edge with `req_valid` 0 changes no register and gives no response. That the machine idles when nothing is
presented is the model's choice (log 1). -/
def Obligations.EdgeWithoutRequestChangesNothing : Prop :=
  (∀ (s : State) (w : ReqWord) (rest : List PortEvent),
    step { s with inputs := .edge false false w :: rest } = .next { s with inputs := rest, rsp := none }) ∧
  (∀ s : State, step { s with inputs := [] } = .next { s with inputs := [], rsp := none })

/-- A step runs the decoded instruction, after taking the port event that presented it: a request word at a clock edge (R30,
R43, R158). That the two bytes of a command handed to the bus (R36, R90, R92) are a step of their own, which runs the wire
instruction, is the model's choice (log 3), and so is the list of port events (log 1). -/
def Obligations.StepRunsTheDecodedInstruction : Prop :=
  (∀ (s : State) (w : ReqWord) (rest : List PortEvent) (i : Instr), decodeRequest w = .ok i →
    step { s with inputs := .edge false true w :: rest } = exec i { s with inputs := rest }) ∧
  (∀ (s : State) (b0 b1 : Byte) (rest : List PortEvent) (i : Instr), decodeFrame (b0 ++ b1) = some i →
    step { s with inputs := .handOver b0 b1 :: rest } = exec i { s with inputs := rest })

/-- Presenting the word of an instruction makes the next step run it, in every state. What presenting a word is (a request
word at a clock edge, a command word as the two bytes of its frame handed to the bus) is the model's inference (log 11); that
a command word is a step of its own, which runs the wire instruction, is the model's choice (log 3). -/
def Obligations.PresentedWordRunsNext : Prop := ∀ (s : State) (i : Instr), step (s.present (encode i)) = exec i s

/-- Two bytes handed to the bus that are no command are refused by name (the model's choice, log 5). -/
def Obligations.StrayFrameIsRefusedByName : Prop :=
  ∀ (s : State) (b0 b1 : Byte) (rest : List PortEvent), decodeFrame (b0 ++ b1) = none →
    step { s with inputs := .handOver b0 b1 :: rest } = .refused (.notACommandFrame b0 b1)

/-- R157: every request word, in every state, is answered with a response. -/
def Obligations.EveryRequestIsAnswered : Prop :=
  ∀ (s : State) (w : ReqWord) (rest : List PortEvent), ∃ t r,
    step { s with inputs := .edge false true w :: rest } = .next t ∧ t.rsp = some r ∧ t.inputs = rest

/-- R134: ERR_OP before ERR_ARG before ERR_LEN before the verdict; every other request is answered OK. -/
def Obligations.StatusPriority : Prop :=
  ∀ (s : State) (op : BitVec 3) (arg : Byte) (rest : List PortEvent),
    let reserved : Prop :=
      (op = 0#3 ∧ arg ≠ 0#8) ∨ (op = 2#3 ∧ arg ≠ 0#8) ∨ (op = 3#3 ∧ (arg.extractLsb' 3 5 ≠ 0#5 ∨ 6 ≤ (arg.extractLsb' 0 3).toNat))
    let answers (t : State) : Prop := step { s with inputs := .edge false true (op ++ arg) :: rest } = .next t
    (4 ≤ op.toNat → answers { s with inputs := rest, rsp := some ⟨.errOp, false, 0#16⟩ }) ∧
    (op.toNat < 4 → reserved → answers { s with inputs := rest, rsp := some ⟨.errArg, false, 0#16⟩ }) ∧
    (op = 2#3 → arg = 0#8 → s.crcv.pos ≠ 0 → answers { s with inputs := rest, rsp := some ⟨.errLen, false, 0#16⟩ }) ∧
    (op.toNat < 4 → ¬ reserved → ¬ (op = 2#3 ∧ s.crcv.pos ≠ 0) →
      ∃ t v f, answers t ∧ t.rsp = some ⟨.ok, v, f⟩)

/-- R132: a refused request changes no register, produces no frame and no verdict. -/
def Obligations.RefusedRequestChangesNothing : Prop :=
  ∀ (s t : State) (r : Response), step s = .next t → t.rsp = some r → r.status ≠ .ok →
    t.crcv = s.crcv ∧ r.frame = 0#16 ∧ r.result = false ∧ t.bus = s.bus ∧ t.inputs = s.inputs.tail

/-- R45, R154, R159: only a VEND on whole groups with no failure gives result 1, and only an ENC gives a frame that is not
0x0000, its command's opcode. -/
def Obligations.OnlyVendGivesAVerdictAndOnlyEncAFrame : Prop :=
  ∀ (s t : State) (r : Response), step s = .next t → t.rsp = some r →
    (r.result = true → s.task = .run .vend ∧ s.crcv.pos = 0 ∧ s.crcv.fail = false) ∧
    (r.frame ≠ 0#16 → r.status = .ok ∧ ∃ c, s.task = .run (encForm c) ∧ r.frame = opcode c)

/-! ### The instructions -/

/-- R62: VSTART writes the five registers and answers OK; with a reserved argument it is answered ERR_ARG and changes none. -/
def Obligations.VstartBeginsABuffer : Prop :=
  (∀ s : State, exec .vstart s =
    .next { s with crcv := { crc := 0xFF#8, pos := 0, gidx := 0, fail := false, fgrp := 0 }
                   rsp := some ⟨.ok, false, 0#16⟩ }) ∧
  (∀ (s : State) (arg : Byte) (rest : List PortEvent),
    step { s with inputs := .edge false true (0b000#3 ++ arg) :: rest } =
      .next (if arg ≠ 0#8 then { s with inputs := rest, rsp := some ⟨.errArg, false, 0#16⟩ }
        else { s with inputs := rest, rsp := some ⟨.ok, false, 0#16⟩
                      crcv := { crc := 0xFF#8, pos := 0, gidx := 0, fail := false, fgrp := 0 } }))

/-- R63: VBYTE takes a data byte when POS is 0 or 1 and the checksum byte when POS is 2; it is accepted in every state and
answered OK with result 0. -/
def Obligations.VbyteTakesTheNextByte : Prop :=
  ∀ (s : State) (b : Byte),
    decodeRequest (0b001#3 ++ b) = .ok (.vbyte b) ∧
    (s.crcv.pos = 0 → exec (.vbyte b) s =
      .next { s with crcv := { s.crcv with crc := crc8Byte s.crcv.crc b, pos := 1 }, rsp := some ⟨.ok, false, 0#16⟩ }) ∧
    (s.crcv.pos = 1 → exec (.vbyte b) s =
      .next { s with crcv := { s.crcv with crc := crc8Byte s.crcv.crc b, pos := 2 }, rsp := some ⟨.ok, false, 0#16⟩ }) ∧
    (s.crcv.pos = 2 → b ≠ s.crcv.crc → s.crcv.fail = false → exec (.vbyte b) s =
      .next { s with crcv := { crc := 0xFF#8, pos := 0, gidx := satInc s.crcv.gidx, fail := true, fgrp := s.crcv.gidx }
                     rsp := some ⟨.ok, false, 0#16⟩ }) ∧
    (s.crcv.pos = 2 → (b = s.crcv.crc ∨ s.crcv.fail = true) → exec (.vbyte b) s =
      .next { s with crcv := { s.crcv with crc := 0xFF#8, pos := 0, gidx := satInc s.crcv.gidx }
                     rsp := some ⟨.ok, false, 0#16⟩ })

/-- R64: VEND writes nothing; its answer is ERR_ARG on a reserved argument, else ERR_LEN inside a group, else OK with the
verdict. -/
def Obligations.VendGivesTheVerdict : Prop :=
  (∀ s : State,
    (s.crcv.pos ≠ 0 → exec .vend s = .next { s with rsp := some ⟨.errLen, false, 0#16⟩ }) ∧
    (s.crcv.pos = 0 → s.crcv.fail = true → exec .vend s = .next { s with rsp := some ⟨.ok, false, 0#16⟩ }) ∧
    (s.crcv.pos = 0 → s.crcv.fail = false → exec .vend s = .next { s with rsp := some ⟨.ok, true, 0#16⟩ })) ∧
  (∀ (s : State) (arg : Byte) (rest : List PortEvent),
    step { s with inputs := .edge false true (0b010#3 ++ arg) :: rest } =
      if arg ≠ 0#8 then .next { s with inputs := rest, rsp := some ⟨.errArg, false, 0#16⟩ }
      else exec .vend { s with inputs := rest })

/-- R84 to R89: request word, response, response word and bus bytes of each encoder form, in every state, with no register
changed. -/
def Obligations.EncoderFormsAnswerTheirOpcodes : Prop :=
  ∀ s : State,
    let form (i : Instr) (word : ReqWord) (frame : CmdWord) (rsp : RspWord) (bytes : List Byte) : Prop :=
      decodeRequest word = .ok i ∧ exec i s = .next { s with rsp := some ⟨.ok, false, frame⟩ } ∧
      Response.toWord ⟨.ok, false, frame⟩ = rsp ∧ frame16 frame = bytes
    form .encWakeup 0x300 0x3517 0x03517 [0x35, 0x17] ∧
    form .encReset 0x301 0x805D 0x0805D [0x80, 0x5D] ∧
    form .encSleep 0x302 0xB098 0x0B098 [0xB0, 0x98] ∧
    form .encReadid 0x303 0xEFC8 0x0EFC8 [0xEF, 0xC8] ∧
    form .encMeasn 0x304 0x58E0 0x058E0 [0x58, 0xE0] ∧
    form .encMeaslp 0x305 0x401A 0x0401A [0x40, 0x1A]

/-- R83: the general form of ENC, for every argument. -/
def Obligations.EncGeneralForm : Prop :=
  ∀ (s : State) (arg : Byte) (rest : List PortEvent),
    if arg.extractLsb' 3 5 ≠ 0#5 ∨ 6 ≤ (arg.extractLsb' 0 3).toNat then
      step { s with inputs := .edge false true (0b011#3 ++ arg) :: rest } =
        .next { s with inputs := rest, rsp := some ⟨.errArg, false, 0#16⟩ }
    else ∃ c, commandOf (arg.extractLsb' 0 3) = some c ∧
      step { s with inputs := .edge false true (0b011#3 ++ arg) :: rest } =
        .next { s with inputs := rest, rsp := some ⟨.ok, false, opcode c⟩ }

/-- A command on the wire is one bus write of exactly its two bytes, the more significant first; no register changes and no
response is given. That the model counts this as the instruction's effect is its choice (log 3). -/
def Obligations.WireRowsWriteTheirTwoBytes : Prop :=
  ∀ s : State,
    let writes (i : Instr) (bytes : List Byte) : Prop := exec i s = .next { s with rsp := none, bus := s.bus ++ [bytes] }
    writes .cmdWakeup [0x35, 0x17] ∧ writes .cmdReset [0x80, 0x5D] ∧ writes .cmdSleep [0xB0, 0x98] ∧
    writes .cmdReadid [0xEF, 0xC8] ∧ writes .cmdMeasn [0x58, 0xE0] ∧ writes .cmdMeaslp [0x40, 0x1A]

/-- R90: SEND is ENC and then one write of `frame16` of the frame that ENC returned; the registers are untouched. -/
def Obligations.SendWritesTheReturnedFrame : Prop :=
  ∀ (c : Command) (s : State), ∃ t u r,
    exec (encForm c) s = .next t ∧ t.rsp = some r ∧ r.status = .ok ∧ t.bus = s.bus ∧
    runProgram (expandSend c) s = .next u ∧ u.bus = s.bus ++ [frame16 r.frame] ∧
    (frame16 r.frame).length = 2 ∧ u.crcv = s.crcv ∧ u.inputs = s.inputs

/-- R80: an ENC's response is the same in any two states, and it changes no register. -/
def Obligations.EncIgnoresTheState : Prop :=
  ∀ (c : Command) (s s' : State), ∃ t t', exec (encForm c) s = .next t ∧ exec (encForm c) s' = .next t' ∧
    t.rsp = t'.rsp ∧ t.crcv = s.crcv ∧ t'.crcv = s'.crcv

/-- R32: VSTART, VEND and ENC are idempotent, state and response; VBYTE is not, since it always moves POS. -/
def Obligations.VstartVendAndEncAreIdempotent : Prop :=
  (∀ s : State, ∃ t, exec .vstart s = .next t ∧ exec .vstart t = .next t) ∧
  (∀ s : State, ∃ t, exec .vend s = .next t ∧ exec .vend t = .next t) ∧
  (∀ (c : Command) (s : State), ∃ t, exec (encForm c) s = .next t ∧ exec (encForm c) t = .next t) ∧
  (∀ (b : Byte) (s : State), ∃ t, exec (.vbyte b) s = .next t ∧ t.crcv.pos ≠ s.crcv.pos)

/-- The frame of every instruction: the port events still to come never change; the bus changes only by a wire row; the
registers change only by VSTART and VBYTE (R16). -/
def Obligations.InstructionsChangeOnlyTheirOwnPart : Prop :=
  ∀ (i : Instr) (s : State), ∃ t, exec i s = .next t ∧ t.inputs = s.inputs ∧
    ((∀ c, i ≠ cmdForm c) → t.bus = s.bus) ∧
    (writesRegisters i = false → t.crcv = s.crcv)

/-! ### The registers one by one -/

/-- R14: FAIL becomes or stays 1 exactly by a mismatched checksum byte or by being 1 already; only VSTART and reset clear
it. -/
def Obligations.FailIsStickyUntilVstartOrReset : Prop :=
  (∀ (i : Instr) (s t : State), exec i s = .next t →
    (t.crcv.fail = true ↔
      (s.crcv.fail = true ∧ i ≠ .vstart) ∨ ∃ b, i = .vbyte b ∧ s.crcv.pos = 2 ∧ b ≠ s.crcv.crc)) ∧
  (∀ (s : State) (valid : Bool) (w : ReqWord) (rest : List PortEvent), ∃ t,
    step { s with inputs := .edge true valid w :: rest } = .next t ∧ t.crcv.fail = false)

/-- R15: FGRP takes GIDX, before its increment, exactly when FAIL goes from 0 to 1; VSTART clears it; nothing else writes
it. -/
def Obligations.FgrpCapturesGidxWhenFailIsSet : Prop :=
  ∀ (i : Instr) (s t : State), exec i s = .next t →
    (i = .vstart → t.crcv.fgrp = 0) ∧
    (i ≠ .vstart → s.crcv.fail = false → t.crcv.fail = true → t.crcv.fgrp = s.crcv.gidx) ∧
    (i ≠ .vstart → (s.crcv.fail = true ∨ t.crcv.fail = false) → t.crcv.fgrp = s.crcv.fgrp)

/-- R13: GIDX is cleared by VSTART, counts a checksum byte and stays at 255, and is written by nothing else. -/
def Obligations.GidxCountsGroupsAndSaturates : Prop :=
  ∀ (i : Instr) (s t : State), exec i s = .next t →
    (i = .vstart → t.crcv.gidx.toNat = 0) ∧
    (∀ b, i = .vbyte b → s.crcv.pos = 2 → t.crcv.gidx.toNat = min (s.crcv.gidx.toNat + 1) 255) ∧
    (i ≠ .vstart → (∀ b, i = .vbyte b → s.crcv.pos ≠ 2) → t.crcv.gidx = s.crcv.gidx)

/-- R11, R12: who writes CRC and POS, and what. -/
def Obligations.CrcAndPosAreWrittenAsStated : Prop :=
  ∀ (i : Instr) (s t : State), exec i s = .next t →
    (i = .vstart → t.crcv.crc = 0xFF#8 ∧ t.crcv.pos = 0) ∧
    (∀ b, i = .vbyte b → s.crcv.pos ≠ 2 →
      t.crcv.crc = crc8Byte s.crcv.crc b ∧ t.crcv.pos.val = s.crcv.pos.val + 1) ∧
    (∀ b, i = .vbyte b → s.crcv.pos = 2 → t.crcv.crc = 0xFF#8 ∧ t.crcv.pos = 0) ∧
    (writesRegisters i = false → t.crcv.crc = s.crcv.crc ∧ t.crcv.pos = s.crcv.pos)

/-- R18: the offset 3·GIDX + POS advances by one per VBYTE while GIDX has not saturated, returns to 0 by VSTART, and moves by
nothing else. -/
def Obligations.BufferOffsetAdvancesByOne : Prop :=
  ∀ (i : Instr) (s t : State), exec i s = .next t →
    (∀ b, i = .vbyte b → s.crcv.gidx.toNat < 255 → t.crcv.offset = s.crcv.offset + 1) ∧
    (i = .vstart → t.crcv.offset = 0) ∧
    (writesRegisters i = false → t.crcv.offset = s.crcv.offset)

/-- R16: the observation outputs show the registers; `o_pos` never shows 3 (I-1). -/
def Obligations.ObservationOutputsShowTheRegisters : Prop :=
  ∀ s : State, s.observe.oCrc = s.crcv.crc ∧ s.observe.oPos.toNat = s.crcv.pos.val ∧
    s.observe.oGidx = s.crcv.gidx ∧ (s.observe.oFail = 1#1 ↔ s.crcv.fail = true) ∧
    s.observe.oFgrp = s.crcv.fgrp ∧ s.observe.oPos ≠ 3#2

/-! ### Invariants -/

/-- The invariants I-2 to I-4 of the registers, that the bus carries only commands, and that responses are clean: every step
keeps them, from every state that has them. -/
def Obligations.EveryStepKeepsTheInvariant : Prop := ∀ s t : State, s.Inv → step s = .next t → t.Inv

/-- The reset state has the invariant. -/
def Obligations.ResetStateHasTheInvariant : Prop := State.reset.Inv

/-! ### The checksum -/

/-- Values of section 2 of the test vectors (spec/95_test_vectors.md), under the reading of the CRC's parameters that the spec
adopts (log 9). -/
def Obligations.CrcVectorsOfTheSpec : Prop :=
  crc8Bit 0x80 = 0x31 ∧ crc8Bit 0x99 = 0x03 ∧ crc8Bit 0x7F = 0xFE ∧
  crc8Byte 0xFF 0xBE = 0x0C ∧ crc8Byte 0x0C 0xEF = 0x92 ∧ crc8Byte 0x00 0x80 = 0x7A ∧
  crc8 [] = 0xFF ∧ crc8 [0xBE, 0xEF] = 0x92 ∧ crc8 [0x00, 0x00] = 0x81 ∧ crc8 [0xFF, 0xFF] = 0xAC ∧
  crc8 [0x31, 0x32, 0x33, 0x34, 0x35, 0x36, 0x37, 0x38, 0x39] = 0xF7

/-- R70 (a), (b): a group is good exactly when the CRC of all three bytes is 0; a byte step depends on register and byte only
through their xor, by a bijection on bytes that sends 0 to 0. -/
def Obligations.ResidueAndTableForm : Prop :=
  (∀ d0 d1 c : Byte, crc8 [d0, d1, c] = 0#8 ↔ c = crc8 [d0, d1]) ∧
  (∀ c b : Byte, crc8Byte c b = crc8Byte 0#8 (c ^^^ b)) ∧
  Function.Bijective (crc8Byte 0#8) ∧ crc8Byte 0#8 0#8 = 0#8

/-- R70 (c): the eight xor trees of a byte step. -/
def Obligations.ParallelFormOfTheByteStep : Prop :=
  ∀ c b : Byte,
    let x (k : Nat) : Bool := (c ^^^ b).getLsbD k
    let n (k : Nat) : Bool := (crc8Byte c b).getLsbD k
    n 0 = (x 6 ^^ x 4 ^^ x 3 ^^ x 0) ∧
    n 1 = (x 7 ^^ x 5 ^^ x 4 ^^ x 1) ∧
    n 2 = (x 6 ^^ x 5 ^^ x 2) ∧
    n 3 = (x 7 ^^ x 6 ^^ x 3) ∧
    n 4 = (x 7 ^^ x 6 ^^ x 3 ^^ x 0) ∧
    n 5 = (x 7 ^^ x 6 ^^ x 3 ^^ x 1 ^^ x 0) ∧
    n 6 = (x 7 ^^ x 4 ^^ x 2 ^^ x 1) ∧
    n 7 = (x 5 ^^ x 3 ^^ x 2)

/-- R70 (e): the group with its own checksum is good; inverting one, two or three of its 24 bits makes it bad; the pattern
0x800023 is not detected. (`i`, `j`, `k` may coincide.) -/
def Obligations.UpToThreeBitErrorsAreDetected : Prop :=
  ∀ d0 d1 : Byte,
    let group : BitVec 24 := d0 ++ d1 ++ crc8 [d0, d1]
    let good (g : BitVec 24) : Bool := groupOk (g.extractLsb' 16 8) (g.extractLsb' 8 8) (g.extractLsb' 0 8)
    good group = true ∧
    (∀ i j k : Fin 24, good (group ^^^ (1#24 <<< i.val ||| 1#24 <<< j.val ||| 1#24 <<< k.val)) = false) ∧
    good (group ^^^ 0x800023#24) = true

/-! ### The validator -/

/-- R60: `validate` is defined exactly when the length is a multiple of 3, and is then the conjunction of `group_ok` over all
groups. -/
def Obligations.ValidateIsTheConjunctionOverGroups : Prop :=
  ∀ s : List Byte,
    (validate s = none ↔ s.length % 3 ≠ 0) ∧
    (s.length % 3 = 0 → (validate s = some true ↔
      ∀ g, g < s.length / 3 →
        ∃ d0 d1 c, s[3 * g]? = some d0 ∧ s[3 * g + 1]? = some d1 ∧ s[3 * g + 2]? = some c ∧ crc8 [d0, d1] = c))

/-- R65: after any program from reset, the registers are the stated function of the current buffer, whatever other
instructions came between its bytes. -/
def Obligations.RegistersAreAFunctionOfTheCurrentBuffer : Prop :=
  ∀ p : List Instr, ∃ t, runProgram p State.reset = .next t ∧
    let s := currentBuffer p
    let whole := s.take (s.length / 3 * 3)
    t.crcv.pos.val = s.length % 3 ∧
    t.crcv.crc = crc8 (s.drop (s.length / 3 * 3)) ∧
    (t.crcv.fail = false ↔ validate whole = some true) ∧
    (∀ k, firstBadGroup whole = some k → t.crcv.fail = true ∧ t.crcv.fgrp.toNat = min k 255) ∧
    t.crcv.gidx.toNat = min (s.length / 3) 255

/-- R61, R65: the response to a VEND is a function of the current buffer alone, the validator's. -/
def Obligations.VerdictIsAPureFunctionOfTheBuffer : Prop :=
  ∀ p : List Instr, ∃ t, runProgram (p ++ [.vend]) State.reset = .next t ∧
    (∀ v, validate (currentBuffer p) = some v → t.rsp = some ⟨.ok, v, 0#16⟩) ∧
    (validate (currentBuffer p) = none → t.rsp = some ⟨.errLen, false, 0#16⟩)

/-- R65, one step of it: from any state whose registers are those of a buffer, every instruction leaves the registers of that
buffer as the instruction changes it. -/
def Obligations.EveryInstructionKeepsTheRegistersOfTheBuffer : Prop :=
  ∀ (i : Instr) (s t : State) (buffer : List Byte), s.crcv = registersFor buffer → exec i s = .next t →
    t.crcv = registersFor (bufferAfter buffer i)

/-- R65 with R150 and R132: every step, from any state whose registers are those of a buffer, leaves the registers of a buffer:
the empty one on a reset edge, the instruction's on an instruction, and the same one otherwise. -/
def Obligations.EveryStepKeepsTheRegistersOfTheBuffer : Prop :=
  ∀ (s t : State) (buffer : List Byte), s.crcv = registersFor buffer → step s = .next t →
    (s.task = .reset → t.crcv = registersFor []) ∧
    (∀ i, s.task = .run i → t.crcv = registersFor (bufferAfter buffer i)) ∧
    (s.task ≠ .reset → (∀ i, s.task ≠ .run i) → t.crcv = registersFor buffer)

/-- R61, R65, one step: a VEND answers the validator's value on the buffer whose registers the state has, and keeps them. -/
def Obligations.VendAnswersTheValidatorOnTheBuffer : Prop :=
  ∀ (s : State) (buffer : List Byte), s.crcv = registersFor buffer → ∃ t, exec .vend s = .next t ∧ t.crcv = s.crcv ∧
    (∀ v, validate buffer = some v → t.rsp = some ⟨.ok, v, 0#16⟩) ∧
    (validate buffer = none → t.rsp = some ⟨.errLen, false, 0#16⟩)

/-- R66: VALIDATE is n + 2 requests whose outcome is the validator's, from every state. -/
def Obligations.ValidateProgramComputesTheValidator : Prop :=
  ∀ (s : State) (bytes : List Byte), (expandValidate bytes).length = bytes.length + 2 ∧
    ∃ t, runProgram (expandValidate bytes) s = .next t ∧
      (∀ v, validate bytes = some v → t.rsp = some ⟨.ok, v, 0#16⟩) ∧
      (validate bytes = none → t.rsp = some ⟨.errLen, false, 0#16⟩) ∧
      (validate bytes = none ↔ bytes.length % 3 ≠ 0) ∧
      t.crcv = registersFor bytes ∧ t.bus = s.bus ∧ t.inputs = s.inputs

/-- R67: the empty buffer is valid. -/
def Obligations.EmptyBufferIsValid : Prop :=
  validate [] = some true ∧
  ∀ s : State, ∃ t, runProgram [.vstart, .vend] s = .next t ∧ t.rsp = some ⟨.ok, true, 0#16⟩

/-- R69, R153: once FAIL is 1, no program without a VSTART gives a true verdict, clears FAIL or changes FGRP. -/
def Obligations.FirstBadGroupFixesTheVerdict : Prop :=
  ∀ (p : List Instr) (s : State), .vstart ∉ p → s.crcv.fail = true →
    ∃ t, runProgram (p ++ [.vend]) s = .next t ∧ t.crcv.fail = true ∧ t.crcv.fgrp = s.crcv.fgrp ∧
      ∃ r, t.rsp = some r ∧ r.result = false

/-- R3, R137: ENC, VEND and refused words among the requests of a buffer do not disturb it: the registers after any request
words are those after its VSTARTs and VBYTEs alone. -/
def Obligations.OtherRequestsDoNotDisturbTheBuffer : Prop :=
  ∀ (s : State) (ws : List ReqWord),
    let counts (w : ReqWord) : Bool := match decodeRequest w with
      | .ok i => writesRegisters i
      | .error _ => false
    let after (vs : List ReqWord) := core.run vs.length { s with inputs := vs.map (.edge false true) }
    ∃ t u, after ws = .next t ∧ after (ws.filter counts) = .next u ∧ t.crcv = u.crcv

/-- R133: a host that keeps its duties (R120) never sees an error status, at any point of its program. What the duties leave
open is the model's choice (log 19, log 20). -/
def Obligations.DutifulHostSeesNoErrorStatus : Prop :=
  ∀ p q : List Instr, hostKeepsDuties (p ++ q) = true → ∃ t, runProgram p State.reset = .next t ∧
    ∀ r, t.rsp = some r → r.status = .ok

/-! ### The host's procedures, outside the block -/

/-- R106: when Wakeup is not acknowledged, `read` fails at once and sends nothing more, no Sleep. -/
def Obligations.ReadAbortsWhenWakeupIsNotAcknowledged : Prop :=
  ∀ (hp : Config.HostParams) (lowPower : Bool) (a : CycleAnswers hp.pollMax) (w : World), a.wakeAck = false →
    (readCycle hp lowPower a w).outcome = .error .transportError ∧
    (readCycle hp lowPower a w).world.trace =
      w.trace ++ [.lock, .busWrite hp.devAddr [0x35, 0x17] false, .unlock]

/-- R111: past an acknowledged Wakeup, `read` sends Sleep exactly once, at the end, and its acknowledge does not change the
outcome. -/
def Obligations.ReadSendsSleepExactlyOnceAtTheEnd : Prop :=
  ∀ (hp : Config.HostParams) (lowPower : Bool) (a : CycleAnswers hp.pollMax) (w : World), a.wakeAck = true →
    (∃ es, (readCycle hp lowPower a w).world.trace =
        w.trace ++ [.lock, .busWrite hp.devAddr [0x35, 0x17] true, .unlock, .delayMicros 240] ++ es ++
          [.lock, .busWrite hp.devAddr [0xB0, 0x98] a.sleepAck, .unlock] ∧
      ∀ address acked, HostEvent.busWrite address [0xB0, 0x98] acked ∉ es) ∧
    ∀ ack, (readCycle hp lowPower { a with sleepAck := ack } w).outcome = (readCycle hp lowPower a w).outcome

/-- R109, R110: the first acknowledged answer, whichever poll brings it, is decoded, humidity first and big-endian, exactly
when both groups are good; otherwise the outcome is a checksum error. -/
def Obligations.ReadDecodesOnlyCheckedBytes : Prop :=
  ∀ (hp : Config.HostParams) (lowPower sleepAck : Bool) (b0 b1 b2 b3 b4 b5 : Byte)
    (polls : Vector (ReadAnswer 6) hp.pollMax) (failed later : List (ReadAnswer 6)) (w : World),
    (∀ a ∈ failed, a.acked = false) →
    polls.toList = failed ++ ⟨true, #v[b0, b1, b2, b3, b4, b5]⟩ :: later →
    (readCycle hp lowPower ⟨true, true, polls, sleepAck⟩ w).outcome =
      if groupOk b0 b1 b2 && groupOk b3 b4 b5 then .ok (b0 ++ b1, b3 ++ b4) else .error .checksumError

/-- R116, R133: on the buffers the host checks, of 3 and of 6 bytes, the block answers OK, so that a check that does not pass
is the response OK with result 0 and never a status of misuse. -/
def Obligations.HostChecksAreAnsweredOk : Prop :=
  ∀ (bytes : List Byte) (w : World), (bytes.length = 3 ∨ bytes.length = 6) →
    ((crcPasses bytes w).1 = true → (crcPasses bytes w).2.block.rsp = some ⟨.ok, true, 0#16⟩) ∧
    ((crcPasses bytes w).1 = false → (crcPasses bytes w).2.block.rsp = some ⟨.ok, false, 0#16⟩)

/-- R108: when every poll fails, `read` gives a timeout after exactly POLL_MAX reads. -/
def Obligations.ReadTimesOutAfterThePollBudget : Prop :=
  ∀ (hp : Config.HostParams) (lowPower : Bool) (a : CycleAnswers hp.pollMax) (w : World),
    a.wakeAck = true → a.measureAck = true → (∀ p ∈ a.polls.toList, p.acked = false) →
    let reads (es : List HostEvent) : Nat :=
      es.countP fun e => match e with
        | .busRead .. => true
        | _ => false
    (readCycle hp lowPower a w).outcome = .error .timeoutError ∧
    reads (readCycle hp lowPower a w).world.trace = reads w.trace + hp.pollMax

/-- R112: an ID response with a good checksum but a wrong bit-field makes `init` fail with a protocol mismatch, with no Sleep
sent. -/
def Obligations.InitFailsOnAWrongIdBeforeSleep : Prop :=
  ∀ (hp : Config.HostParams) (sleepAck : Bool) (b0 b1 b2 : Byte) (w : World),
    groupOk b0 b1 b2 = true → (b0.getLsbD 3 = false ∨ b1.extractLsb' 0 6 ≠ hp.idFamilyCode) →
    (initDevice hp ⟨true, true, ⟨true, #v[b0, b1, b2]⟩, sleepAck⟩ w).outcome = .error .protocolMismatchError ∧
    ∃ es, (initDevice hp ⟨true, true, ⟨true, #v[b0, b1, b2]⟩, sleepAck⟩ w).world.trace = w.trace ++ es ∧
      ∀ address acked, HostEvent.busWrite address [0xB0, 0x98] acked ∉ es

/-- R113, R116: `reset()` is one Reset write and a wait of 240 microseconds, and its outcome is the write's acknowledge. -/
def Obligations.ResetSendsWaitsAndSurfacesTheAcknowledge : Prop :=
  ∀ (hp : Config.HostParams) (acked : Bool) (w : World),
    (resetDevice hp acked w).outcome = (if acked then .ok () else .error .transportError) ∧
    (resetDevice hp acked w).world.trace =
      w.trace ++ [.lock, .busWrite hp.devAddr [0x80, 0x5D] acked, .unlock, .delayMicros 240] ∧
    (resetDevice hp acked w).world.block.crcv = w.block.crcv

/-- R114: the stated values of the conversions in every format that has the integers from -65535 to 65535, and the Fahrenheit
identity in every format, by the format's own operations. What a format is is the model's choice (log 16). -/
def Obligations.ConversionsTakeTheirStatedValues : Prop :=
  ∀ f : Config.FloatFormat,
    ((∀ n : Int, -65535 ≤ n → n ≤ 65535 → f.round n = n) →
      toCelsius f 0#16 = -45 ∧ toCelsius f 65535#16 = 130 ∧ toPercentage f 65535#16 = 100 ∧ toPercentage f 0#16 = 0) ∧
    ∀ raw, toFahrenheit f raw = f.add (f.div (f.mul (toCelsius f raw) (f.lit 9)) (f.lit 5)) (f.lit 32)
end

