-- ==== Sys2Proof/Laws/State.lean ====
section
/-! SUPPORT. One lemma per field per update of the state, so that no later proof unfolds a record update. -/

namespace Sys2Proof.Machine

section respond
variable (s : State) (st : Status) (v : Bool) (f : CmdWord)
@[simp] theorem State.respond_crcv : (s.respond st v f).crcv = s.crcv := rfl
@[simp] theorem State.respond_inputs : (s.respond st v f).inputs = s.inputs := rfl
@[simp] theorem State.respond_bus : (s.respond st v f).bus = s.bus := rfl
@[simp] theorem State.respond_rsp : (s.respond st v f).rsp = some ⟨st, v, f⟩ := rfl
@[simp] theorem State.refuse_crcv : (s.refuse st).crcv = s.crcv := rfl
@[simp] theorem State.refuse_inputs : (s.refuse st).inputs = s.inputs := rfl
@[simp] theorem State.refuse_bus : (s.refuse st).bus = s.bus := rfl
@[simp] theorem State.refuse_rsp : (s.refuse st).rsp = some ⟨st, false, 0#16⟩ := rfl
end respond

section answerFrame
variable (s : State) (c : Command)
@[simp] theorem State.answerFrame_crcv : (s.answerFrame c).crcv = s.crcv := rfl
@[simp] theorem State.answerFrame_inputs : (s.answerFrame c).inputs = s.inputs := rfl
@[simp] theorem State.answerFrame_bus : (s.answerFrame c).bus = s.bus := rfl
@[simp] theorem State.answerFrame_rsp : (s.answerFrame c).rsp = some ⟨.ok, false, opcode c⟩ := rfl
@[simp] theorem State.busWrite_crcv : (s.busWrite c).crcv = s.crcv := rfl
@[simp] theorem State.busWrite_inputs : (s.busWrite c).inputs = s.inputs := rfl
@[simp] theorem State.busWrite_bus : (s.busWrite c).bus = s.bus ++ [frame16 (opcode c)] := rfl
@[simp] theorem State.busWrite_rsp : (s.busWrite c).rsp = none := rfl
end answerFrame

section silent
variable (s : State)
@[simp] theorem State.silent_crcv : s.silent.crcv = s.crcv := rfl
@[simp] theorem State.silent_inputs : s.silent.inputs = s.inputs := rfl
@[simp] theorem State.silent_bus : s.silent.bus = s.bus := rfl
@[simp] theorem State.silent_rsp : s.silent.rsp = none := rfl
@[simp] theorem State.applyReset_crcv : s.applyReset.crcv = Crcv.reset := rfl
@[simp] theorem State.applyReset_inputs : s.applyReset.inputs = s.inputs := rfl
@[simp] theorem State.applyReset_bus : s.applyReset.bus = s.bus := rfl
@[simp] theorem State.applyReset_rsp : s.applyReset.rsp = none := rfl
@[simp] theorem State.popInput_crcv : s.popInput.crcv = s.crcv := rfl
@[simp] theorem State.popInput_inputs : s.popInput.inputs = s.inputs.tail := rfl
@[simp] theorem State.popInput_bus : s.popInput.bus = s.bus := rfl
@[simp] theorem State.popInput_rsp : s.popInput.rsp = s.rsp := rfl
@[simp] theorem State.present_crcv (c : CodeWord) : (s.present c).crcv = s.crcv := rfl
@[simp] theorem State.present_inputs (c : CodeWord) : (s.present c).inputs = eventOf c :: s.inputs := rfl
@[simp] theorem State.present_bus (c : CodeWord) : (s.present c).bus = s.bus := rfl
@[simp] theorem State.present_rsp (c : CodeWord) : (s.present c).rsp = s.rsp := rfl
@[simp] theorem State.present_popInput (c : CodeWord) : (s.present c).popInput = s := rfl
end silent

section setCrcv
variable (s : State) (r : Crcv)
@[simp] theorem State.setCrcv_crcv : (s.setCrcv r).crcv = r := rfl
@[simp] theorem State.setCrcv_inputs : (s.setCrcv r).inputs = s.inputs := rfl
@[simp] theorem State.setCrcv_bus : (s.setCrcv r).bus = s.bus := rfl
@[simp] theorem State.setCrcv_rsp : (s.setCrcv r).rsp = s.rsp := rfl
end setCrcv

section registers
variable (r : Crcv) (b : Byte)
@[simp] theorem Crcv.takeData_crc : (r.takeData b).crc = crc8Byte r.crc b := rfl
@[simp] theorem Crcv.takeData_pos : (r.takeData b).pos = r.pos + 1 := rfl
@[simp] theorem Crcv.takeData_gidx : (r.takeData b).gidx = r.gidx := rfl
@[simp] theorem Crcv.takeData_fail : (r.takeData b).fail = r.fail := rfl
@[simp] theorem Crcv.takeData_fgrp : (r.takeData b).fgrp = r.fgrp := rfl
@[simp] theorem Crcv.takeChecksum_crc : (r.takeChecksum b).crc = Config.crcInit := rfl
@[simp] theorem Crcv.takeChecksum_pos : (r.takeChecksum b).pos = 0 := rfl
@[simp] theorem Crcv.takeChecksum_gidx : (r.takeChecksum b).gidx = satInc r.gidx := rfl
@[simp] theorem Crcv.takeChecksum_fail : (r.takeChecksum b).fail = failAfter r b := rfl
@[simp] theorem Crcv.takeChecksum_fgrp : (r.takeChecksum b).fgrp = fgrpAfter r b := rfl
@[simp] theorem Crcv.reset_crc : Crcv.reset.crc = Config.crcInit := rfl
@[simp] theorem Crcv.reset_pos : Crcv.reset.pos = 0 := rfl
@[simp] theorem Crcv.reset_gidx : Crcv.reset.gidx = 0 := rfl
@[simp] theorem Crcv.reset_fail : Crcv.reset.fail = false := rfl
@[simp] theorem Crcv.reset_fgrp : Crcv.reset.fgrp = 0 := rfl
end registers

end Sys2Proof.Machine
end

