-- ==== Sys2Proof/Laws/Ops.lean ====
section
/-! SUPPORT. What each shared operation does, once: the fields of a request word, the command tables, the saturating counter,
the flag computations, the two ways a byte is taken, and the functions of bytes by their recursion. -/

namespace Sys2Proof

@[simp] theorem opField_requestWord : ∀ (op : BitVec 3) (arg : Byte), opField (requestWord op arg) = op := by
  intro op arg
  simp only [opField, requestWord]
  ext i hi
  simp only [BitVec.getElem_extractLsb', BitVec.getLsbD_append]
  have h : ¬ (8 + i < 8) := by omega
  simp [h, BitVec.getLsbD_eq_getElem hi]

@[simp] theorem argField_requestWord : ∀ (op : BitVec 3) (arg : Byte), argField (requestWord op arg) = arg := by
  intro op arg
  simp only [argField, requestWord]
  ext i hi
  simp only [BitVec.getElem_extractLsb', BitVec.getLsbD_append]
  simp [hi]

@[simp] theorem requestWord_opField_argField (w : ReqWord) : requestWord (opField w) (argField w) = w := by
  simp only [opField, argField, requestWord]
  ext i hi
  simp only [BitVec.getElem_append]
  by_cases h : i < 8
  · simp [h, BitVec.getLsbD_eq_getElem hi]
  · have h8 : 8 + (i - 8) = i := by omega
    simp [h, h8, BitVec.getLsbD_eq_getElem hi]

@[simp] theorem encReserved_requestWord (op : BitVec 3) (arg : Byte) :
    encReserved (requestWord op arg) = arg.extractLsb' 3 5 := by
  simp only [encReserved, requestWord]
  ext i hi
  have h : 3 + i < 8 := by omega
  simp only [BitVec.getElem_extractLsb', BitVec.getLsbD_append]
  simp [h]

@[simp] theorem selField_requestWord (op : BitVec 3) (arg : Byte) :
    selField (requestWord op arg) = arg.extractLsb' 0 3 := by
  simp only [selField, requestWord]
  ext i hi
  have h : i < 8 := by omega
  simp only [BitVec.getElem_extractLsb', BitVec.getLsbD_append]
  simp [h]

/-- A VSTART word: accepted only with argument 0 (R62). -/
theorem decodeRequest_op0 (arg : Byte) :
    decodeRequest (requestWord 0#3 arg) = if arg = 0#8 then .ok .vstart else .error .errArg := by
  unfold decodeRequest
  rw [opField_requestWord, argField_requestWord]
  rfl

/-- A VBYTE word: accepted with every argument (R63). -/
theorem decodeRequest_op1 (arg : Byte) : decodeRequest (requestWord 1#3 arg) = .ok (.vbyte arg) := by
  unfold decodeRequest
  rw [opField_requestWord, argField_requestWord]
  rfl

/-- A VEND word: accepted only with argument 0 (R64). -/
theorem decodeRequest_op2 (arg : Byte) :
    decodeRequest (requestWord 2#3 arg) = if arg = 0#8 then .ok .vend else .error .errArg := by
  unfold decodeRequest
  rw [opField_requestWord, argField_requestWord]
  rfl

/-- An ENC word: accepted with reserved bits 0 and a selector that names a command (R83). -/
theorem decodeRequest_op3 (arg : Byte) :
    decodeRequest (requestWord 3#3 arg) =
      if arg.extractLsb' 3 5 = 0#5 then
        match commandOf (arg.extractLsb' 0 3) with
        | some c => .ok (encForm c)
        | none => .error .errArg
      else .error .errArg := by
  unfold decodeRequest
  rw [opField_requestWord, encReserved_requestWord, selField_requestWord]
  rfl

/-- A word with `op` 4 to 7 (R131). -/
theorem decodeRequest_op_reserved {op : BitVec 3} (arg : Byte) (h : 4 ≤ op.toNat) :
    decodeRequest (requestWord op arg) = .error .errOp := by
  unfold decodeRequest
  rw [opField_requestWord]
  split <;> first | omega | rfl

/-- A selector names a command exactly when it is below 6 (R44). -/
theorem commandOf_isSome : ∀ sel : BitVec 3, (commandOf sel).isSome = decide (sel.toNat < 6) := by decide

@[simp] theorem commandOf_selectorOf (c : Command) : commandOf (selectorOf c) = some c := by cases c <;> rfl

@[simp] theorem commandOfOpcode_opcode (c : Command) : commandOfOpcode (opcode c) = some c := by cases c <;> decide

theorem commandOfOpcode_eq_some {w : CmdWord} {c : Command} (h : commandOfOpcode w = some c) : w = opcode c := by
  simp only [commandOfOpcode] at h
  split_ifs at h <;> cases h <;> assumption

theorem opcode_injective {c d : Command} (h : opcode c = opcode d) : c = d := by
  have := congrArg commandOfOpcode h
  simpa using this

@[simp] theorem wordOfBytes_highByte_lowByte (w : CmdWord) : wordOfBytes (highByte w) (lowByte w) = w := by
  simp only [wordOfBytes, highByte, lowByte]
  ext i hi
  simp only [BitVec.getElem_append]
  by_cases h : i < 8
  · simp [h, BitVec.getLsbD_eq_getElem hi]
  · have h8 : 8 + (i - 8) = i := by omega
    simp [h, h8, BitVec.getLsbD_eq_getElem hi]

@[simp] theorem decodeFrame_opcode (c : Command) : decodeFrame (opcode c) = some (cmdForm c) := by
  simp [decodeFrame]

theorem encForm_ne_cmdForm (c d : Command) : encForm c ≠ cmdForm d := by cases c <;> cases d <;> decide

namespace Machine

/-- `sat_inc` adds one and stays at the top (R13). -/
theorem satInc_toNat (v : BitVec Config.gidxW) :
    (satInc v).toNat = min (v.toNat + 1) (2 ^ Config.gidxW - 1) := by
  have hv := v.isLt
  simp only [satInc]
  split
  · rename_i h
    rw [BitVec.toNat_add, show ((1 : BitVec Config.gidxW).toNat) = 1 from rfl, Nat.mod_eq_of_lt] <;> omega
  · omega

@[simp] theorem failAfter_eq_false {r : Crcv} {b : Byte} : failAfter r b = false ↔ r.fail = false ∧ b = r.crc := by
  simp [failAfter]

theorem failAfter_of_fail {r : Crcv} {b : Byte} (h : r.fail = true) : failAfter r b = true := by simp [failAfter, h]

theorem fgrpAfter_of_fail {r : Crcv} {b : Byte} (h : r.fail = true) : fgrpAfter r b = r.fgrp := by simp [fgrpAfter, h]

theorem fgrpAfter_of_match {r : Crcv} : fgrpAfter r r.crc = r.fgrp := by simp [fgrpAfter]

theorem fgrpAfter_of_mismatch {r : Crcv} {b : Byte} (hf : r.fail = false) (hb : b ≠ r.crc) :
    fgrpAfter r b = r.gidx := by simp [fgrpAfter, hf, hb]

theorem Crcv.take_data {r : Crcv} (b : Byte) (h : r.pos ≠ 2) : r.take b = r.takeData b := by simp [Crcv.take, h]

theorem Crcv.take_checksum {r : Crcv} (b : Byte) (h : r.pos = 2) : r.take b = r.takeChecksum b := by
  simp [Crcv.take, h]

@[simp] theorem crc8From_nil (c : Byte) : crc8From c [] = c := rfl

@[simp] theorem crc8From_cons (c b : Byte) (s : List Byte) : crc8From c (b :: s) = crc8From (crc8Byte c b) s := rfl

theorem crc8From_append (c : Byte) (s t : List Byte) : crc8From c (s ++ t) = crc8From (crc8From c s) t := by
  induction s generalizing c with
  | nil => rfl
  | cons b s ih => simp [ih]

/-- A shift of the register is linear over the two-element field. -/
theorem crc8Bit_xor (a b : Byte) : crc8Bit (a ^^^ b) = crc8Bit a ^^^ crc8Bit b := by
  unfold crc8Bit
  rw [BitVec.msb_xor, BitVec.shiftLeft_xor_distrib]
  have cancel : ∀ x y p : Byte, (x ^^^ p) ^^^ (y ^^^ p) = x ^^^ y := by
    intro x y p
    rw [show (x ^^^ p) ^^^ (y ^^^ p) = (x ^^^ y) ^^^ (p ^^^ p) by ac_rfl]
    simp
  cases a.msb <;> cases b.msb
  · rfl
  · exact BitVec.xor_assoc _ _ _
  · have swap : ∀ x y p : Byte, (x ^^^ y) ^^^ p = (x ^^^ p) ^^^ y := by
      intro x y p
      ac_rfl
    exact swap _ _ _
  · exact (cancel _ _ _).symm

/-- So is any number of shifts. -/
theorem crc8Shift_xor (n : Nat) (a b : Byte) : crc8Shift n (a ^^^ b) = crc8Shift n a ^^^ crc8Shift n b := by
  induction n generalizing a b with
  | zero => rfl
  | succ n ih => simp [crc8Shift, crc8Bit_xor, ih]

theorem groupsOk_group (d0 d1 c : Byte) (s : List Byte) :
    groupsOk (d0 :: d1 :: c :: s) = (groupOk d0 d1 c && groupsOk s) := by simp [groupsOk]

/-- No whole group is bad exactly when every whole group is good (R60, R69). -/
theorem firstBadGroup_eq_none : ∀ s : List Byte, firstBadGroup s = none ↔ groupsOk s = true
  | [] => by simp [firstBadGroup, groupsOk]
  | [_] => by simp [firstBadGroup, groupsOk]
  | [_, _] => by simp [firstBadGroup, groupsOk]
  | d0 :: d1 :: c :: s => by
    simp only [firstBadGroup, groupsOk]
    by_cases h : groupOk d0 d1 c = true
    · simpa [h] using firstBadGroup_eq_none s
    · simp [h]

end Machine

end Sys2Proof
end

