-- ==== Sys2Proof/Laws/Exec.lean ====
section
/-! SUPPORT. What each instruction does, as one equation per shape, and what a step is on each kind of port event: later
proofs cite these and unfold no meaning. -/

namespace Sys2Proof.Machine

@[simp] theorem exec_vstart (s : State) : exec .vstart s = .next ((s.setCrcv Crcv.reset).respond .ok false 0#16) := rfl

@[simp] theorem exec_vbyte (b : Byte) (s : State) :
    exec (.vbyte b) s = .next ((s.setCrcv (s.crcv.take b)).respond .ok false 0#16) := rfl

/-- VEND on whole groups. -/
theorem exec_vend_whole {s : State} (h : s.crcv.pos = 0) :
    exec .vend s = .next (s.respond .ok (verdict s.crcv) 0#16) := by simp [exec, execVend, h]

/-- VEND inside a group. -/
theorem exec_vend_partial {s : State} (h : s.crcv.pos ≠ 0) : exec .vend s = .next (s.refuse .errLen) := by
  simp [exec, execVend, h]

/-- Every instruction has a next state, from every state. -/
theorem exec_total (i : Instr) (s : State) : ∃ t, exec i s = .next t := by cases i <;> exact ⟨_, rfl⟩

@[simp] theorem exec_encForm (c : Command) (s : State) : exec (encForm c) s = .next (s.answerFrame c) := by
  cases c <;> rfl

@[simp] theorem exec_cmdForm (c : Command) (s : State) : exec (cmdForm c) s = .next (s.busWrite c) := by
  cases c <;> rfl

/-- The four shapes of an instruction. -/
theorem instr_cases (i : Instr) :
    i = .vstart ∨ (∃ b, i = .vbyte b) ∨ i = .vend ∨ (∃ c, i = encForm c) ∨ (∃ c, i = cmdForm c) := by
  cases i with
  | vstart => exact .inl rfl
  | vbyte b => exact .inr (.inl ⟨b, rfl⟩)
  | vend => exact .inr (.inr (.inl rfl))
  | encWakeup => exact .inr (.inr (.inr (.inl ⟨.wakeup, rfl⟩)))
  | encReset => exact .inr (.inr (.inr (.inl ⟨.reset, rfl⟩)))
  | encSleep => exact .inr (.inr (.inr (.inl ⟨.sleep, rfl⟩)))
  | encReadid => exact .inr (.inr (.inr (.inl ⟨.readId, rfl⟩)))
  | encMeasn => exact .inr (.inr (.inr (.inl ⟨.measureNormal, rfl⟩)))
  | encMeaslp => exact .inr (.inr (.inr (.inl ⟨.measureLowPower, rfl⟩)))
  | cmdWakeup => exact .inr (.inr (.inr (.inr ⟨.wakeup, rfl⟩)))
  | cmdReset => exact .inr (.inr (.inr (.inr ⟨.reset, rfl⟩)))
  | cmdSleep => exact .inr (.inr (.inr (.inr ⟨.sleep, rfl⟩)))
  | cmdReadid => exact .inr (.inr (.inr (.inr ⟨.readId, rfl⟩)))
  | cmdMeasn => exact .inr (.inr (.inr (.inr ⟨.measureNormal, rfl⟩)))
  | cmdMeaslp => exact .inr (.inr (.inr (.inr ⟨.measureLowPower, rfl⟩)))

/-- Everything a step that answers a next state can have done. -/
theorem step_cases {s t : State} (h : step s = .next t) :
    (s.task = .idle ∧ t = s.popInput.silent) ∨ (s.task = .reset ∧ t = s.popInput.applyReset) ∨
    (∃ st, s.task = .refuse st ∧ t = s.popInput.refuse st) ∨
    (∃ i, s.task = .run i ∧ exec i s.popInput = .next t) := by
  unfold step at h
  split at h
  · rename_i e
    injection h with h
    exact .inl ⟨e, h.symm⟩
  · rename_i e
    injection h with h
    exact .inr (.inl ⟨e, h.symm⟩)
  · rename_i st e
    injection h with h
    exact .inr (.inr (.inl ⟨st, e, h.symm⟩))
  · cases h
  · rename_i i e
    exact .inr (.inr (.inr ⟨i, e, h⟩))

/-- What an instruction does to the registers: VSTART resets them, VBYTE takes its byte, every other leaves them (R16). -/
theorem exec_registers {i : Instr} {s t : State} (h : exec i s = .next t) :
    (i = .vstart ∧ t.crcv = Crcv.reset) ∨ (∃ b, i = .vbyte b ∧ t.crcv = s.crcv.take b) ∨
    (writesRegisters i = false ∧ t.crcv = s.crcv) := by
  rcases instr_cases i with rfl | ⟨b, rfl⟩ | rfl | ⟨c, rfl⟩ | ⟨c, rfl⟩
  · cases h
    exact .inl ⟨rfl, rfl⟩
  · cases h
    exact .inr (.inl ⟨b, rfl, rfl⟩)
  · refine .inr (.inr ⟨rfl, ?_⟩)
    by_cases hp : s.crcv.pos = 0
    · rw [exec_vend_whole hp] at h
      cases h
      rfl
    · rw [exec_vend_partial hp] at h
      cases h
      rfl
  · rw [exec_encForm] at h
    cases h
    exact .inr (.inr ⟨by cases c <;> rfl, rfl⟩)
  · rw [exec_cmdForm] at h
    cases h
    exact .inr (.inr ⟨by cases c <;> rfl, rfl⟩)

theorem not_vstart_vbyte_of_writesRegisters {i : Instr} (h : writesRegisters i = false) :
    i ≠ .vstart ∧ ∀ b, i ≠ .vbyte b := by
  constructor
  · rintro rfl
    cases h
  · rintro b rfl
    cases h

/-- A step on a request word: the decoded instruction, or the refusal in a response. -/
theorem step_request (s : State) (w : ReqWord) (rest : List PortEvent) :
    step { s with inputs := .edge false true w :: rest } =
      match decodeRequest w with
      | .ok i => exec i { s with inputs := rest }
      | .error st => .next { s with inputs := rest, rsp := some ⟨st, false, 0#16⟩ } := by
  simp only [step, State.task, taskOf]
  cases decodeRequest w <;> rfl

/-- A step on two bytes handed to the bus. -/
theorem step_handOver (s : State) (b0 b1 : Byte) (rest : List PortEvent) :
    step { s with inputs := .handOver b0 b1 :: rest } =
      match decodeFrame (wordOfBytes b0 b1) with
      | some i => exec i { s with inputs := rest }
      | none => .refused (.notACommandFrame b0 b1) := by
  simp only [step, State.task, taskOf]
  cases decodeFrame (wordOfBytes b0 b1) <;> rfl

@[simp] theorem runProgram_nil (s : State) : runProgram [] s = .next s := rfl

theorem runProgram_cons {i : Instr} {s t : State} (p : List Instr) (h : exec i s = .next t) :
    runProgram (i :: p) s = runProgram p t := by simp [runProgram, h]

end Sys2Proof.Machine
end

