-- ==== Sys2Proof/Laws/Driver.lean ====
section
/-! SUPPORT. What each of the host's procedures does to the block and to its trace, one equation each. -/

namespace Sys2Proof.Machine

@[simp] theorem World.log_block (w : World) (es : List HostEvent) : (w.log es).block = w.block := rfl

@[simp] theorem World.log_trace (w : World) (es : List HostEvent) : (w.log es).trace = w.trace ++ es := rfl

@[simp] theorem World.issue_encForm (w : World) (c : Command) :
    w.issue [encForm c] = { w with block := w.block.answerFrame c } := by simp [World.issue, runProgram]

@[simp] theorem World.issue_cmdForm (w : World) (c : Command) :
    w.issue [cmdForm c] = { w with block := w.block.busWrite c } := by simp [World.issue, runProgram]

@[simp] theorem World.issue_trace (w : World) (p : List Instr) : (w.issue p).trace = w.trace := by
  unfold World.issue
  cases runProgram p w.block <;> rfl

/-- A command is always encoded and written; the answer is the acknowledge (R101). -/
theorem sendCommand_eq (hp : Config.HostParams) (c : Command) (acked : Bool) (w : World) :
    sendCommand hp c acked w =
      (acked,
        { block := (w.block.answerFrame c).busWrite c
          trace := w.trace ++ [.lock, .busWrite hp.devAddr (frame16 (opcode c)) acked, .unlock] }) := by
  simp [sendCommand, World.log]

/-- The block's check of a buffer leaves the trace alone. -/
@[simp] theorem crcPasses_trace (bytes : List Byte) (w : World) : (crcPasses bytes w).2.trace = w.trace := by
  simp [crcPasses]

/-- A read hands on the bus's answer and leaves one bracketed read of that length in the trace (R104). -/
@[simp] theorem readResponse_eq (hp : Config.HostParams) (length : Nat) (a : ReadAnswer length) (w : World) :
    readResponse hp length a w =
      (a, { w with trace := w.trace ++ [.lock, .busRead hp.devAddr length a.acked, .unlock] }) := rfl

/-- `reset()` in one equation: the outcome is the acknowledge, the wait comes either way (R113, R116). -/
theorem resetDevice_eq (hp : Config.HostParams) (acked : Bool) (w : World) :
    resetDevice hp acked w =
      { outcome := if acked then .ok () else .error .transportError
        world :=
          { block := (w.block.answerFrame .reset).busWrite .reset
            trace := w.trace ++ [.lock, .busWrite hp.devAddr (frame16 (opcode .reset)) acked, .unlock, .delayMicros 240] } } := by
  cases acked <;> simp [resetDevice, sendCommand_eq, World.log]

/-- The polling loop leaves the block alone. -/
@[simp] theorem pollMeasurement_block (hp : Config.HostParams) (as : List (ReadAnswer 6)) (w : World) :
    (pollMeasurement hp as w).2.block = w.block := by
  induction as generalizing w with
  | nil => rfl
  | cons a as ih =>
    cases h : a.acked <;> simp only [pollMeasurement, readResponse_eq, h, if_true, Bool.false_eq_true, if_false, ih]
    cases as <;> rfl

/-- The polling loop hands on the first acknowledged answer, and none when there is none (R108). -/
theorem pollMeasurement_fst (hp : Config.HostParams) (as : List (ReadAnswer 6)) (w : World) :
    (pollMeasurement hp as w).1 = (as.find? ReadAnswer.acked).map ReadAnswer.bytes := by
  induction as generalizing w with
  | nil => rfl
  | cons a as ih => cases h : a.acked <;> simp [pollMeasurement, h, ih]

end Sys2Proof.Machine
end

