-- ==== Sys2Proof/Laws/PerInstr.lean ====
section
/-! SUPPORT. Statements about every instruction, one lemma per constructor. MatchesItsRow: the word of an instruction matches
its own row of spec/opcode_table.json and no other (spec/30_encoding.md R43: the rows do not overlap). -/

namespace Sys2Proof.Laws.MatchesItsRow

/-- The instruction's word matches exactly one row, its own. -/
def Statement (i : Instr) : Prop := (encode i).rows.map TableRow.mnemonic = [i.mnemonic]

theorem vstart : Statement .vstart := rfl
theorem vbyte : ∀ b, Statement (.vbyte b) := by
  unfold Statement
  decide
theorem vend : Statement .vend := rfl
theorem encWakeup : Statement .encWakeup := rfl
theorem encReset : Statement .encReset := rfl
theorem encSleep : Statement .encSleep := rfl
theorem encReadid : Statement .encReadid := rfl
theorem encMeasn : Statement .encMeasn := rfl
theorem encMeaslp : Statement .encMeaslp := rfl
theorem cmdWakeup : Statement .cmdWakeup := rfl
theorem cmdReset : Statement .cmdReset := rfl
theorem cmdSleep : Statement .cmdSleep := rfl
theorem cmdReadid : Statement .cmdReadid := rfl
theorem cmdMeasn : Statement .cmdMeasn := rfl
theorem cmdMeaslp : Statement .cmdMeaslp := rfl

end Sys2Proof.Laws.MatchesItsRow
end

