-- ==== Sys2Proof/Tests/Slice0.lean ====
section
/-! SUPPORT. Tests with expected results from the spec (spec/30_encoding.md for words, spec/95_test_vectors.md section 2 for
effects), and witnesses that the hypotheses of the statements can be met. -/

namespace Sys2Proof.Tests

open Sys2Proof.Machine

/-- A state with these registers, as 95_test_vectors.md writes them: (CRC, POS, GIDX, FAIL, FGRP). -/
def regs (crc : Byte) (pos : Fin 3) (gidx : BitVec 8) (fail : Bool) (fgrp : BitVec 8) : State :=
  { State.reset with crcv := { crc := crc, pos := pos, gidx := gidx, fail := fail, fgrp := fgrp } }

/-- The next state, if there is one. -/
def nextOf : Host.Outcome State Fault Refusal → Option State
  | .next t => some t
  | .fault _ => none
  | .refused _ => none

/-- The registers and the response word after one instruction. -/
def shows (i : Instr) (s : State) : Option (Crcv × Option RspWord) := (nextOf (exec i s)).map fun t => (t.crcv, t.rspWord)

/-- The registers and the response word after one request word at a clock edge. -/
def answers (w : ReqWord) (s : State) : Option (Crcv × Option RspWord) :=
  (nextOf (step { s with inputs := [.edge false true w] })).map fun t => (t.crcv, t.rspWord)

/-! Decoding, bit by bit from R42 to R44 and R36. -/

theorem test_decode_vstart : decodeRequest 0b000_00000000#11 = .ok .vstart := by rfl
theorem test_decode_vbyte : decodeRequest 0b001_10111110#11 = .ok (.vbyte 0xBE) := by rfl
theorem test_decode_vend : decodeRequest 0b010_00000000#11 = .ok .vend := by rfl
theorem test_decode_enc_wakeup : decodeRequest 0b011_00000_000#11 = .ok .encWakeup := by rfl
theorem test_decode_enc_reset : decodeRequest 0b011_00000_001#11 = .ok .encReset := by rfl
theorem test_decode_enc_sleep : decodeRequest 0b011_00000_010#11 = .ok .encSleep := by rfl
theorem test_decode_enc_readid : decodeRequest 0b011_00000_011#11 = .ok .encReadid := by rfl
theorem test_decode_enc_measn : decodeRequest 0b011_00000_100#11 = .ok .encMeasn := by rfl
theorem test_decode_enc_measlp : decodeRequest 0b011_00000_101#11 = .ok .encMeaslp := by rfl
theorem test_decode_cmd_wakeup : decodeFrame 0b0011_0101_0001_0111#16 = some .cmdWakeup := by rfl
theorem test_decode_cmd_reset : decodeFrame 0b1000_0000_0101_1101#16 = some .cmdReset := by rfl
theorem test_decode_cmd_sleep : decodeFrame 0b1011_0000_1001_1000#16 = some .cmdSleep := by rfl
theorem test_decode_cmd_readid : decodeFrame 0b1110_1111_1100_1000#16 = some .cmdReadid := by rfl
theorem test_decode_cmd_measn : decodeFrame 0b0101_1000_1110_0000#16 = some .cmdMeasn := by rfl
theorem test_decode_cmd_measlp : decodeFrame 0b0100_0000_0001_1010#16 = some .cmdMeaslp := by rfl

/-! WellFormed refuses an ill-formed word for each check (R131, R47, R37). -/

theorem test_wf_op : opExists 0x400#11 = false ∧ (CodeWord.request 0x400#11).wellFormed = false := by decide
theorem test_wf_vstart_arg : argAllowed 0x001#11 = false ∧ (CodeWord.request 0x001#11).wellFormed = false := by decide
theorem test_wf_vend_arg : argAllowed 0x2FF#11 = false ∧ (CodeWord.request 0x2FF#11).wellFormed = false := by decide
theorem test_wf_enc_reserved : argAllowed 0x308#11 = false ∧ (CodeWord.request 0x308#11).wellFormed = false := by decide
theorem test_wf_enc_selector : argAllowed 0x306#11 = false ∧ (CodeWord.request 0x306#11).wellFormed = false := by decide
theorem test_wf_frame : (CodeWord.frame 0x0000#16).wellFormed = false := by decide
theorem test_wf_accepts : (CodeWord.request 0x1BE#11).wellFormed = true ∧ (CodeWord.frame 0x3517#16).wellFormed = true := by
  decide

/-! The table's numbering, and a step that fetches it (R43, R36). -/

theorem test_table_word_request : decodeTableWord 16 0x1BE = some (.vbyte 0xBE) := by decide
theorem test_table_word_frame : decodeTableWord 16 0x3517 = some .cmdWakeup := by decide
theorem test_table_word_reserved : decodeTableWord 16 0x306 = none ∧ decodeTableWord 16 0x0800 = none := by decide
theorem test_fetch_request :
    (nextOf (step (State.reset.withFetchWord 16 0x1BE))).map State.crcv = some (regs 0x0C 1 0 false 0).crcv := by decide
theorem test_fetch_frame :
    (nextOf (step (State.reset.withFetchWord 16 0x401A))).map State.bus = some [[0x40, 0x1A]] := by decide

/-! The checksum (95_test_vectors.md 2.1 to 2.5). -/

theorem test_crc8Bit : crc8Bit 0x41 = 0x82 ∧ crc8Bit 0xFF = 0xCF := by decide
theorem test_crc8Byte : crc8Byte 0xFF 0xBE = 0x0C ∧ crc8Byte 0x0C 0xEF = 0x92 := by decide
theorem test_crc8_table : crc8Byte 0 0x10 = 0x43 ∧ crc8Byte 0 0xC7 = 0xD0 := by decide
theorem test_crc8 : crc8 [0x12, 0x34] = 0x37 ∧ crc8 [0xBE, 0xEF, 0x93] = 0x31 := by decide +kernel
theorem test_validate_good : validate [0x64, 0x8B, 0xC7, 0x66, 0x66, 0x93] = some true := by decide +kernel
theorem test_validate_second_bad :
    validate [0x64, 0x8B, 0xC7, 0x66, 0x66, 0x92] = some false ∧
      firstBadGroup [0x64, 0x8B, 0xC7, 0x66, 0x66, 0x92] = some 1 := by decide +kernel
theorem test_validate_length : validate [0xBE, 0xEF, 0x92, 0xBE] = none := by decide

/-! One request at a time (95_test_vectors.md 2.6). -/

theorem test_vstart : shows .vstart (regs 0xFF 0 7 true 3) = some (Crcv.reset, some 0x00000) := by decide
theorem test_vstart_arg : answers 0x001 (regs 0x0C 1 0 false 0) = some ((regs 0x0C 1 0 false 0).crcv, some 0x40000) := by
  decide
theorem test_vbyte_data : shows (.vbyte 0xEF) (regs 0x0C 1 0 false 0) = some ((regs 0x92 2 0 false 0).crcv, some 0) := by
  decide
theorem test_vbyte_mismatch : shows (.vbyte 0x93) (regs 0x92 2 4 false 0) = some ((regs 0xFF 0 5 true 4).crcv, some 0) := by
  decide
theorem test_vbyte_after_fail : shows (.vbyte 0x92) (regs 0x92 2 4 true 2) = some ((regs 0xFF 0 5 true 2).crcv, some 0) := by
  decide
theorem test_vbyte_saturated :
    shows (.vbyte 0x93) (regs 0x92 2 255 false 0) = some ((regs 0xFF 0 255 true 255).crcv, some 0) := by decide
theorem test_vend_true : shows .vend (regs 0xFF 0 2 false 0) = some ((regs 0xFF 0 2 false 0).crcv, some 0x10000) := by decide
theorem test_vend_false : shows .vend (regs 0xFF 0 2 true 1) = some ((regs 0xFF 0 2 true 1).crcv, some 0x00000) := by decide
theorem test_vend_length : shows .vend (regs 0x92 2 1 true 0) = some ((regs 0x92 2 1 true 0).crcv, some 0x60000) := by decide
theorem test_vend_arg : answers 0x201 (regs 0x0C 1 0 false 0) = some ((regs 0x0C 1 0 false 0).crcv, some 0x40000) := by decide
theorem test_reserved_op : answers 0x5A5 (regs 0x0C 1 0 false 0) = some ((regs 0x0C 1 0 false 0).crcv, some 0x20000) := by
  decide

/-! The encoder and the bus (95_test_vectors.md 2.7, P2). -/

theorem test_enc_wakeup : answers 0x300 State.reset = some (Crcv.reset, some 0x03517) := by decide
theorem test_enc_reset : answers 0x301 (regs 0x0C 1 0 false 0) = some ((regs 0x0C 1 0 false 0).crcv, some 0x0805D) := by decide
theorem test_enc_sleep : answers 0x302 State.reset = some (Crcv.reset, some 0x0B098) := by decide
theorem test_enc_readid : answers 0x303 State.reset = some (Crcv.reset, some 0x0EFC8) := by decide
theorem test_enc_measn : answers 0x304 State.reset = some (Crcv.reset, some 0x058E0) := by decide
theorem test_enc_measlp : answers 0x305 State.reset = some (Crcv.reset, some 0x0401A) := by decide
theorem test_enc_selector : answers 0x307 State.reset = some (Crcv.reset, some 0x40000) := by decide
theorem test_cmd_sleep_after_wakeup :
    (nextOf (exec .cmdSleep { State.reset with bus := [[0x35, 0x17]] })).map State.bus = some [[0x35, 0x17], [0xB0, 0x98]] := by
  decide
theorem test_send : (nextOf (runProgram (expandSend .readId) State.reset)).map State.bus = some [[0xEF, 0xC8]] := by decide
theorem test_validate_program :
    (nextOf (runProgram (expandValidate [0x08, 0x87, 0x5B]) (regs 0xFF 0 2 true 1))).map State.rspWord = some (some 0x10000) := by decide +kernel

/-! Witnesses: the hypotheses of the statements can be met, each clause by a state of its own. -/

theorem witness_decode : decode (.request 0x1BE#11) = .ok (.vbyte 0xBE) ∧ decode (.frame 0x3517#16) = .ok .cmdWakeup :=
  ⟨rfl, rfl⟩
theorem witness_rows : ∃ r ∈ requestRows, (0x1FF#11).toNat &&& r.mask = r.pattern := by decide
theorem witness_reserved_words :
    decodeRequest 0x400#11 = .error .errOp ∧ decodeRequest 0x7FF#11 = .error .errOp ∧ decodeRequest 0x3FF#11 = .error .errArg ∧
      decodeRequest 0x001#11 = .error .errArg := ⟨rfl, rfl, rfl, rfl⟩
theorem witness_frames : decodeFrame (0x35#8 ++ 0x17#8) = some .cmdWakeup ∧ decodeFrame (0x00#8 ++ 0x00#8) = none := ⟨rfl, rfl⟩
theorem witness_priority :
    4 ≤ (4#3).toNat ∧ (3#3).toNat < 4 ∧ (0x08#8).extractLsb' 3 5 ≠ 0#5 ∧ 6 ≤ ((0x06#8).extractLsb' 0 3).toNat ∧
      ¬ 6 ≤ ((0x05#8).extractLsb' 0 3).toNat ∧ (regs 0x0C 1 0 false 0).crcv.pos ≠ 0 := by decide
theorem witness_refused_request :
    (nextOf (step { regs 0x0C 1 0 false 0 with inputs := [.edge false true 0x200] })).map State.rsp =
      some (some ⟨.errLen, false, 0#16⟩) := by decide
theorem witness_verdict_and_frame :
    (nextOf (step { State.reset with inputs := [.edge false true 0x200] })).map State.rsp = some (some ⟨.ok, true, 0#16⟩) ∧
      (nextOf (step { State.reset with inputs := [.edge false true 0x300] })).map State.rsp =
        some (some ⟨.ok, false, 0x3517#16⟩) := by decide
theorem witness_vbyte_clauses :
    State.reset.crcv.pos = 0 ∧ (regs 0x0C 1 0 false 0).crcv.pos = 1 ∧
      ((regs 0x92 2 0 false 0).crcv.pos = 2 ∧ (0x93 : Byte) ≠ (regs 0x92 2 0 false 0).crcv.crc ∧
        (regs 0x92 2 0 false 0).crcv.fail = false) ∧
      ((regs 0x92 2 255 true 0).crcv.pos = 2 ∧ (regs 0x92 2 255 true 0).crcv.fail = true) := by decide
theorem witness_vend_clauses :
    (regs 0x0C 1 0 false 0).crcv.pos ≠ 0 ∧ ((regs 0xFF 0 1 true 0).crcv.pos = 0 ∧ (regs 0xFF 0 1 true 0).crcv.fail = true) ∧
      (State.reset.crcv.pos = 0 ∧ State.reset.crcv.fail = false) := by decide
theorem witness_register_transitions :
    (∃ t, exec (.vbyte 0x93) (regs 0x92 2 4 false 0) = .next t ∧ t.crcv.fail = true ∧ t.crcv.fgrp = 4) ∧
      (∃ t, exec (.vbyte 0x92) (regs 0x92 2 4 true 2) = .next t ∧ t.crcv.fail = true) ∧
      (∃ t, exec .vend (regs 0x92 2 4 true 2) = .next t ∧ writesRegisters .vend = false) ∧
      (∃ t, exec .vstart (regs 0x92 2 254 true 2) = .next t) := ⟨⟨_, rfl, rfl, rfl⟩, ⟨_, rfl, rfl⟩, ⟨_, rfl, rfl⟩, ⟨_, rfl⟩⟩
theorem witness_offset : (regs 0x92 2 254 false 0).crcv.gidx.toNat < 255 := by decide
theorem witness_invariant :
    (regs 0x0C 1 2 true 1).Inv ∧ ∃ t, step (regs 0x0C 1 2 true 1) = .next t := by
  refine ⟨⟨⟨?_, ?_, ?_, ?_⟩, ?_, ?_⟩, ⟨_, rfl⟩⟩ <;> simp [regs, State.reset, State.BusCarriesCommands, Config.gidxW]
theorem witness_validate :
    validate [0xBE, 0xEF, 0x92] = some true ∧ validate [0xBE, 0xEF, 0x93] = some false ∧ validate [0xBE] = none := by decide +kernel
theorem witness_bad_group : firstBadGroup [0xBE, 0xEF, 0x93] = some 0 := by decide +kernel
theorem witness_failed_buffer : Instr.vstart ∉ [Instr.vbyte 0xBE] ∧ (regs 0xFF 0 2 true 1).crcv.fail = true := by decide
theorem witness_counting_words :
    (match decodeRequest 0x1BE#11 with | .ok i => writesRegisters i | .error _ => false) = true ∧
      (match decodeRequest 0x400#11 with | .ok i => writesRegisters i | .error _ => false) = false := by decide

/-- A host with two polls. -/
def someHost : Config.HostParams := { pollMax := 2, idFamilyCode := 0x07, devAddr := 0x70 }

/-- A fresh world. -/
def fresh : World := { block := State.reset, trace := [] }

/-- A poll that is not acknowledged, and one that brings the bytes of 95_test_vectors.md P2. -/
def noAnswer : ReadAnswer 6 := { acked := false, bytes := #v[0xFF, 0x00, 0x00, 0xFF, 0x00, 0x00] }
def goodAnswer : ReadAnswer 6 := { acked := true, bytes := #v[0x64, 0x8B, 0xC7, 0x66, 0x66, 0x93] }

theorem witness_read_abort : (CycleAnswers.mk false true #v[noAnswer, noAnswer] true).wakeAck = false := rfl
theorem witness_read_timeout :
    (CycleAnswers.mk true true #v[noAnswer, noAnswer] true).wakeAck = true ∧
      ∀ p ∈ (CycleAnswers.mk true true #v[noAnswer, noAnswer] true).polls.toList, p.acked = false := by decide +kernel
theorem witness_read_decodes :
    (∀ a ∈ [noAnswer], a.acked = false) ∧
      #v[noAnswer, goodAnswer].toList =
        [noAnswer] ++ { acked := true, bytes := #v[0x64, 0x8B, 0xC7, 0x66, 0x66, 0x93] } :: [] ∧
      (readCycle someHost false ⟨true, true, #v[noAnswer, goodAnswer], true⟩ fresh).outcome.toOption =
        some (0x648B, 0x6666) := by decide +kernel
theorem witness_init_mismatch :
    groupOk 0x00 0x00 0x81 = true ∧ (0x00#8).getLsbD 3 = false ∧ groupOk 0x08 0x47 0x1C = true ∧
      groupOk 0x08 0x87 0x5B = true ∧ (0x87#8).extractLsb' 0 6 = someHost.idFamilyCode := by decide +kernel
theorem witness_host_checks :
    (crcPasses [0xBE, 0xEF, 0x92] fresh).1 = true ∧ (crcPasses [0xBE, 0xEF, 0x93, 0xBE, 0xEF, 0x92] fresh).1 = false := by
  decide +kernel
theorem test_reset_nack :
    (resetDevice someHost false fresh).outcome.toOption = none ∧
      (resetDevice someHost false fresh).world.trace =
        [.lock, .busWrite 0x70 [0x80, 0x5D] false, .unlock, .delayMicros 240] := by decide +kernel
theorem witness_duties :
    hostKeepsDuties (expandSend .wakeup ++ expandValidate [0xBE, 0xEF, 0x92] ++ expandValidate [] ++ expandSend .sleep) = true := by
  decide
theorem test_duties_multiple_of_three :
    hostKeepsDuties [.vstart, .vbyte 1, .vend] = false ∧ hostKeepsDuties [.vstart, .vbyte 1, .vstart, .vend] = false ∧
      hostKeepsDuties [.vbyte 1, .vbyte 2] = false := by decide
theorem test_duties_vstart_and_frames :
    hostKeepsDuties [.vbyte 1, .vbyte 2, .vbyte 3, .vend, .vbyte 4, .vbyte 5, .vbyte 6] = false ∧
      hostKeepsDuties [.cmdWakeup] = false ∧ hostKeepsDuties [.encWakeup, .cmdSleep] = false ∧
      hostKeepsDuties [.encWakeup, .vstart, .vend, .cmdWakeup] = true := by decide

/-- A buffer in progress, as `registersFor` describes it (95_test_vectors.md 2.6). -/
theorem witness_registersFor : (regs 0x0C 1 1 true 0).crcv = registersFor [0xBE, 0xEF, 0x93, 0xBE] := by decide +kernel
theorem witness_step_tasks :
    State.reset.crcv = registersFor [] ∧ { State.reset with inputs := [.edge true false 0] }.task = .reset ∧
      { State.reset with inputs := [.edge false true 0x1BE] }.task = .run (.vbyte 0xBE) ∧
      State.reset.task ≠ .reset ∧ (∀ i, State.reset.task ≠ .run i) := by
  refine ⟨rfl, rfl, rfl, nofun, nofun⟩

/-- A format that has every integer of at most 17 bits. -/
theorem witness_format : ∀ n : Int, -65535 ≤ n → n ≤ 65535 → (Config.FloatFormat.mk id).round n = n := fun _ _ _ => rfl

end Sys2Proof.Tests
end

section
/-! The state family: the registers one by one (spec/10_state.md R11 to R19). The laws of taking a byte and the frame of an
instruction come first; each obligation then follows the three cases of `exec_registers`. -/

namespace Sys2Proof.Machine

/-! ### What taking a byte does to each register -/

theorem failAfter_eq_true {r : Crcv} {b : Byte} : failAfter r b = true ↔ r.fail = true ∨ b ≠ r.crc := by
  simp [failAfter]

/-- The byte that makes FAIL go from 0 to 1 leaves the present GIDX in FGRP (R15). -/
theorem fgrpAfter_of_fail_set {r : Crcv} {b : Byte} (hclear : r.fail = false) (hset : failAfter r b = true) :
    fgrpAfter r b = r.gidx := by
  refine fgrpAfter_of_mismatch hclear fun hmatch => ?_
  rw [failAfter_eq_false.mpr ⟨hclear, hmatch⟩] at hset
  cases hset

/-- FGRP keeps its value when FAIL was 1 already or stays 0 (R15). -/
theorem fgrpAfter_of_fail_kept {r : Crcv} {b : Byte} (hkept : r.fail = true ∨ failAfter r b = false) :
    fgrpAfter r b = r.fgrp := by
  rcases hkept with hset | hclear
  · exact fgrpAfter_of_fail hset
  · obtain ⟨-, rfl⟩ := failAfter_eq_false.mp hclear
    exact fgrpAfter_of_match

theorem Crcv.take_fail_eq_true {r : Crcv} {b : Byte} :
    (r.take b).fail = true ↔ r.fail = true ∨ (r.pos = 2 ∧ b ≠ r.crc) := by
  by_cases hpos : r.pos = 2
  · simp [Crcv.take_checksum b hpos, failAfter_eq_true, hpos]
  · simp [Crcv.take_data b hpos, hpos]

theorem Crcv.take_fgrp_of_fail_set {r : Crcv} {b : Byte} (hclear : r.fail = false) (hset : (r.take b).fail = true) :
    (r.take b).fgrp = r.gidx := by
  by_cases hpos : r.pos = 2
  · rw [Crcv.take_checksum b hpos] at hset ⊢
    exact fgrpAfter_of_fail_set hclear hset
  · rw [Crcv.take_data b hpos, Crcv.takeData_fail, hclear] at hset
    cases hset

theorem Crcv.take_fgrp_of_fail_kept {r : Crcv} {b : Byte} (hkept : r.fail = true ∨ (r.take b).fail = false) :
    (r.take b).fgrp = r.fgrp := by
  by_cases hpos : r.pos = 2
  · rw [Crcv.take_checksum b hpos] at hkept ⊢
    exact fgrpAfter_of_fail_kept hkept
  · rw [Crcv.take_data b hpos, Crcv.takeData_fgrp]

/-- Before the checksum byte, the next position is one more. -/
theorem pos_succ_val {p : Fin 3} (h : p ≠ 2) : (p + 1).val = p.val + 1 := by
  revert p
  decide

/-- A byte taken below the counter's top moves the offset by one: a data byte by POS, a checksum byte by GIDX (R18). -/
theorem Crcv.take_offset {r : Crcv} (b : Byte) (h : r.gidx.toNat < 2 ^ Config.gidxW - 1) :
    (r.take b).offset = r.offset + 1 := by
  by_cases hpos : r.pos = 2
  · have hgidx : (satInc r.gidx).toNat = r.gidx.toNat + 1 := by rw [satInc_toNat]; omega
    rw [Crcv.take_checksum b hpos, Crcv.offset, Crcv.offset, hpos, Crcv.takeChecksum_gidx, Crcv.takeChecksum_pos, hgidx]
    rfl
  · simp [Crcv.take_data b hpos, Crcv.offset, pos_succ_val hpos, Nat.add_assoc]

/-! ### The frame of an instruction -/

/-- VEND only answers, inside a group or not (R64). -/
theorem exec_vend_responds {s t : State} (h : exec .vend s = .next t) : ∃ st v, t = s.respond st v 0#16 := by
  by_cases hpos : s.crcv.pos = 0
  · rw [exec_vend_whole hpos] at h
    cases h
    exact ⟨_, _, rfl⟩
  · rw [exec_vend_partial hpos] at h
    cases h
    exact ⟨_, _, rfl⟩

theorem exec_inputs {i : Instr} {s t : State} (h : exec i s = .next t) : t.inputs = s.inputs := by
  rcases instr_cases i with rfl | ⟨b, rfl⟩ | rfl | ⟨c, rfl⟩ | ⟨c, rfl⟩
  · cases h; rfl
  · cases h; rfl
  · obtain ⟨st, v, rfl⟩ := exec_vend_responds h; rfl
  · rw [exec_encForm] at h; cases h; rfl
  · rw [exec_cmdForm] at h; cases h; rfl

/-- Only a wire row writes to the bus. -/
theorem exec_bus_of_not_cmdForm {i : Instr} {s t : State} (h : exec i s = .next t) (hwire : ∀ c, i ≠ cmdForm c) :
    t.bus = s.bus := by
  rcases instr_cases i with rfl | ⟨b, rfl⟩ | rfl | ⟨c, rfl⟩ | ⟨c, rfl⟩
  · cases h; rfl
  · cases h; rfl
  · obtain ⟨st, v, rfl⟩ := exec_vend_responds h; rfl
  · rw [exec_encForm] at h; cases h; rfl
  · exact absurd rfl (hwire c)

/-- Only VSTART and VBYTE write a register (R16). -/
theorem exec_crcv_of_not_writesRegisters {i : Instr} {s t : State} (h : exec i s = .next t)
    (hw : writesRegisters i = false) : t.crcv = s.crcv := by
  obtain ⟨hstart, hbyte⟩ := not_vstart_vbyte_of_writesRegisters hw
  rcases exec_registers h with ⟨rfl, -⟩ | ⟨b, rfl, -⟩ | ⟨-, hkept⟩
  · exact absurd rfl hstart
  · exact absurd rfl (hbyte b)
  · exact hkept

/-- An edge with `rst` asserted resets the block and takes the edge, whatever is presented with it (R150). -/
theorem step_resetEdge (s : State) (valid : Bool) (w : ReqWord) (rest : List PortEvent) :
    step { s with inputs := .edge true valid w :: rest } = .next { s with inputs := rest }.applyReset := rfl

theorem Crcv.inv_reset : Crcv.reset.Inv where
  betweenGroups _ := rfl
  noFailNoGroup _ := rfl
  failedBefore h := by simp at h
  failedStrictly h := by simp at h

/-! ### The obligations -/

/-- Settles O9: the reset registers are the constants of R19, and VSTART writes the same record. -/
theorem resetRegistersAreTheVstartRegisters : Obligations.ResetRegistersAreTheVstartRegisters :=
  ⟨rfl, rfl, rfl, rfl, rfl, fun s => ⟨_, exec_vstart s, rfl⟩⟩

/-- Settles O28: an instruction is total, and each part of the state it leaves has its frame lemma. -/
theorem instructionsChangeOnlyTheirOwnPart : Obligations.InstructionsChangeOnlyTheirOwnPart := by
  intro i s
  obtain ⟨t, h⟩ := exec_total i s
  exact ⟨t, h, exec_inputs h, exec_bus_of_not_cmdForm h, exec_crcv_of_not_writesRegisters h⟩

/-- Settles O29: VSTART clears FAIL, a byte sets it by a mismatch at POS 2 only, everything else leaves it, and a reset edge
leaves the reset registers. -/
theorem failIsStickyUntilVstartOrReset : Obligations.FailIsStickyUntilVstartOrReset := by
  refine ⟨fun i s t h => ?_, fun s valid w rest => ⟨_, step_resetEdge s valid w rest, rfl⟩⟩
  rcases exec_registers h with ⟨rfl, hreset⟩ | ⟨b, rfl, htake⟩ | ⟨hw, hkept⟩
  · simp [hreset]
  · simp [htake, Crcv.take_fail_eq_true]
  · obtain ⟨hstart, hbyte⟩ := not_vstart_vbyte_of_writesRegisters hw
    simp [hkept, hstart, hbyte]

/-- Settles O30: only a byte can set FAIL, and then FGRP takes GIDX. -/
theorem fgrpCapturesGidxWhenFailIsSet : Obligations.FgrpCapturesGidxWhenFailIsSet := by
  intro i s t h
  rcases exec_registers h with ⟨rfl, hreset⟩ | ⟨b, rfl, htake⟩ | ⟨hw, hkept⟩
  · exact ⟨fun _ => by rw [hreset, Crcv.reset_fgrp], fun hne => absurd rfl hne, fun hne => absurd rfl hne⟩
  · rw [htake]
    exact ⟨nofun, fun _ => Crcv.take_fgrp_of_fail_set, fun _ => Crcv.take_fgrp_of_fail_kept⟩
  · obtain ⟨hstart, -⟩ := not_vstart_vbyte_of_writesRegisters hw
    rw [hkept]
    refine ⟨fun he => absurd he hstart, fun _ hclear hset => ?_, fun _ _ => rfl⟩
    rw [hclear] at hset
    cases hset

/-- Settles O31: GIDX is `satInc` of itself after a checksum byte, which is the minimum with 255. -/
theorem gidxCountsGroupsAndSaturates : Obligations.GidxCountsGroupsAndSaturates := by
  intro i s t h
  rcases exec_registers h with ⟨rfl, hreset⟩ | ⟨b, rfl, htake⟩ | ⟨hw, hkept⟩
  · exact ⟨fun _ => by rw [hreset]; rfl, nofun, fun hne => absurd rfl hne⟩
  · rw [htake]
    refine ⟨nofun, fun _ _ hpos => ?_, fun _ hpos => ?_⟩
    · rw [Crcv.take_checksum b hpos]
      exact satInc_toNat s.crcv.gidx
    · rw [Crcv.take_data b (hpos b rfl), Crcv.takeData_gidx]
  · obtain ⟨hstart, hbyte⟩ := not_vstart_vbyte_of_writesRegisters hw
    exact ⟨fun he => absurd he hstart, fun b he => absurd he (hbyte b), fun _ _ => by rw [hkept]⟩

/-- Settles O32: a byte is a data byte before POS 2 and the checksum byte at POS 2. -/
theorem crcAndPosAreWrittenAsStated : Obligations.CrcAndPosAreWrittenAsStated := by
  intro i s t h
  refine ⟨?vstart, ?data, ?checksum, fun hw => ?other⟩
  case vstart =>
    rintro rfl
    cases h
    exact ⟨rfl, rfl⟩
  case data =>
    rintro b rfl hpos
    cases h
    simp [Crcv.take_data b hpos, pos_succ_val hpos]
  case checksum =>
    rintro b rfl hpos
    cases h
    simp [Crcv.take_checksum b hpos]
  case other =>
    rw [exec_crcv_of_not_writesRegisters h hw]
    exact ⟨rfl, rfl⟩

/-- Settles O33: `Crcv.take_offset` for a byte; the reset registers have offset 0. -/
theorem bufferOffsetAdvancesByOne : Obligations.BufferOffsetAdvancesByOne := by
  intro i s t h
  refine ⟨?vbyte, ?vstart, fun hw => ?other⟩
  case vbyte =>
    rintro b rfl hgidx
    cases h
    exact Crcv.take_offset b hgidx
  case vstart =>
    rintro rfl
    cases h
    rfl
  case other => rw [exec_crcv_of_not_writesRegisters h hw]

/-- Settles O34: POS is below 3, so its two bits show it and are never 3. -/
theorem observationOutputsShowTheRegisters : Obligations.ObservationOutputsShowTheRegisters := by
  intro s
  have hlt := s.crcv.pos.isLt
  have hpos : s.observe.oPos.toNat = s.crcv.pos.val := by
    rw [State.observe, BitVec.toNat_ofNat]
    omega
  have hfail : s.observe.oFail = 1#1 ↔ s.crcv.fail = true := by
    have hbit : ∀ v : Bool, BitVec.ofBool v = 1#1 ↔ v = true := by decide
    exact hbit s.crcv.fail
  refine ⟨rfl, hpos, rfl, hfail, rfl, fun h3 => ?_⟩
  rw [h3] at hpos
  have : (3#2).toNat = 3 := rfl
  omega

/-- Settles O36: the registers by `Crcv.inv_reset`; nothing is on the bus and no response is given. -/
theorem resetStateHasTheInvariant : Obligations.ResetStateHasTheInvariant where
  registers := Crcv.inv_reset
  bus := nofun
  response := nofun

end Sys2Proof.Machine
end

section
/-! The memory family: how a presented word comes to run (spec/20_memory.md R30), what a wire row writes (R24), and which
instructions may be repeated (R32). The decoder is read backwards and over the encoder first, so that a step is the
instruction of the word presented. -/

namespace Sys2Proof

/-! ### The decoder -/

@[simp] theorem decode_request_eq_ok {w : ReqWord} {i : Instr} :
    decode (.request w) = .ok i ↔ decodeRequest w = .ok i := by
  cases hw : decodeRequest w <;> simp [decode, hw]

@[simp] theorem decode_frame_eq_ok {w : CmdWord} {i : Instr} :
    decode (.frame w) = .ok i ↔ decodeFrame w = some i := by
  cases hw : decodeFrame w <;> simp [decode, hw]

theorem encode_encForm (c : Command) :
    encode (encForm c) = .request (requestWord 3#3 ((selectorOf c).setWidth 8)) := by
  cases c <;> rfl

theorem encode_cmdForm (c : Command) : encode (cmdForm c) = .frame (opcode c) := by
  cases c <;> rfl

/-- An ENC word with a command's selector is the command's request form (R44). -/
theorem decodeRequest_selectorOf (c : Command) :
    decodeRequest (requestWord 3#3 ((selectorOf c).setWidth 8)) = .ok (encForm c) := by
  cases c <;> rfl

/-- The decoder reads every instruction back from its word (R36, R43). -/
@[simp] theorem decode_encode (i : Instr) : decode (encode i) = .ok i := by
  rcases Machine.instr_cases i with rfl | ⟨b, rfl⟩ | rfl | ⟨c, rfl⟩ | ⟨c, rfl⟩
  · rfl
  · exact decode_request_eq_ok.mpr (decodeRequest_op1 b)
  · rfl
  · rw [encode_encForm, decode_request_eq_ok, decodeRequest_selectorOf]
  · rw [encode_cmdForm, decode_frame_eq_ok, decodeFrame_opcode]

namespace Machine

/-! ### The step on a word that decodes -/

theorem step_request_of_decode {w : ReqWord} {i : Instr} (s : State) (rest : List PortEvent)
    (h : decodeRequest w = .ok i) :
    step { s with inputs := .edge false true w :: rest } = exec i { s with inputs := rest } := by
  rw [step_request, h]

theorem step_handOver_of_decode {b0 b1 : Byte} {i : Instr} (s : State) (rest : List PortEvent)
    (h : decodeFrame (wordOfBytes b0 b1) = some i) :
    step { s with inputs := .handOver b0 b1 :: rest } = exec i { s with inputs := rest } := by
  rw [step_handOver, h]

/-- A presented word that decodes is run next, and nothing but its own port event is taken (R30, log 11). -/
theorem step_present {c : CodeWord} {i : Instr} (s : State) (h : decode c = .ok i) :
    step (s.present c) = exec i s := by
  cases c with
  | request w => exact step_request_of_decode s s.inputs (decode_request_eq_ok.mp h)
  | frame w =>
    refine step_handOver_of_decode s s.inputs ?_
    rw [wordOfBytes_highByte_lowByte]
    exact decode_frame_eq_ok.mp h

/-! ### Repeating an instruction -/

/-- A response replaces the one before it. -/
@[simp] theorem State.respond_respond (s : State) (st st' : Status) (v v' : Bool) (f f' : CmdWord) :
    (s.respond st v f).respond st' v' f' = s.respond st' v' f' := rfl

/-- VEND only reads the registers, so it answers as before in a state that differs in the response alone (R64). -/
theorem exec_vend_respond (s : State) (st : Status) (v : Bool) (f : CmdWord) :
    exec .vend (s.respond st v f) = exec .vend s := by
  by_cases hpos : s.crcv.pos = 0
  · rw [exec_vend_whole hpos, exec_vend_whole (s := s.respond st v f) hpos, State.respond_crcv, State.respond_respond]
  · rw [exec_vend_partial hpos, exec_vend_partial (s := s.respond st v f) hpos]
    rfl

/-- A byte always moves POS: one on inside the group, back to 0 at its end (R12). -/
theorem Crcv.take_pos_ne (r : Crcv) (b : Byte) : (r.take b).pos ≠ r.pos := by
  by_cases hpos : r.pos = 2
  · rw [Crcv.take_checksum b hpos, Crcv.takeChecksum_pos, hpos]
    decide
  · rw [Crcv.take_data b hpos, Crcv.takeData_pos]
    intro hsame
    have hval := pos_succ_val hpos
    rw [hsame] at hval
    omega

/-! ### The obligations -/

/-- Settles O13: an instruction's word decodes to it, so the step that takes the word runs it. -/
theorem presentedWordRunsNext : Obligations.PresentedWordRunsNext := fun s i => step_present s (decode_encode i)

/-- Settles O12: the step's equation on a request word and on two bytes handed over. -/
theorem stepRunsTheDecodedInstruction : Obligations.StepRunsTheDecodedInstruction :=
  ⟨fun s _ rest _ h => step_request_of_decode s rest h, fun s _ _ rest _ h => step_handOver_of_decode s rest h⟩

/-- Settles O24: each wire row is `busWrite` of its command, whose opcode's two bytes are the ones named. -/
theorem wireRowsWriteTheirTwoBytes : Obligations.WireRowsWriteTheirTwoBytes := fun s =>
  ⟨exec_cmdForm .wakeup s, exec_cmdForm .reset s, exec_cmdForm .sleep s, exec_cmdForm .readId s,
    exec_cmdForm .measureNormal s, exec_cmdForm .measureLowPower s⟩

/-- Settles O27: VSTART writes constants and the others only answer, so a second run finds all it reads as the first left
it; a byte moves POS. -/
theorem vstartVendAndEncAreIdempotent : Obligations.VstartVendAndEncAreIdempotent := by
  refine ⟨fun s => ⟨_, exec_vstart s, exec_vstart _⟩, fun s => ?vend,
    fun c s => ⟨_, exec_encForm c s, exec_encForm c _⟩, fun b s => ⟨_, exec_vbyte b s, s.crcv.take_pos_ne b⟩⟩
  case vend =>
    obtain ⟨t, h⟩ := exec_total .vend s
    obtain ⟨st, v, rfl⟩ := exec_vend_responds h
    exact ⟨_, h, by rw [exec_vend_respond, h]⟩

end Machine
end Sys2Proof
end

section
/-! The encoding family: which words are instructions (spec/30_encoding.md R36, R43, R47), what a response can be (R45), and
the invariant of the whole state. A request word is first sorted into the encoded words and the two classes of refused
numbers; the table's rows and the counts then follow from the words' numbers. -/

namespace Sys2Proof

/-! ### The request words by their number -/

theorem toNat_requestWord (op : BitVec 3) (arg : Byte) :
    (requestWord op arg).toNat = 256 * op.toNat + arg.toNat := by
  rw [requestWord, BitVec.toNat_append, ← Nat.shiftLeft_add_eq_or_of_lt arg.isLt, Nat.shiftLeft_eq, Nat.mul_comm]

/-- The numbers of the words the block accepts (R47); `decodeRequest_eq_ok_iff_number` ties it to the decoder. -/
abbrev AcceptedNumber (n : Nat) : Prop :=
  n = 0x000 ∨ (0x100 ≤ n ∧ n ≤ 0x1FF) ∨ n = 0x200 ∨ (0x300 ≤ n ∧ n ≤ 0x305)

/-- The numbers of the words with an operation and a reserved argument (R47); `decodeRequest_cases` ties it to the decoder. -/
abbrev ReservedArgNumber (n : Nat) : Prop :=
  (0x001 ≤ n ∧ n ≤ 0x0FF) ∨ (0x201 ≤ n ∧ n ≤ 0x2FF) ∨ (0x306 ≤ n ∧ n ≤ 0x3FF)

theorem selectorOf_of_commandOf {sel : BitVec 3} {c : Command} (h : commandOf sel = some c) : selectorOf c = sel := by
  unfold commandOf at h
  split at h <;> cases h <;> exact BitVec.eq_of_toNat_eq (Eq.symm ‹_›)

/-- The argument of an ENC word is a command's selector, or it is 6 or more and refused (R44). -/
theorem decodeRequest_op3_cases (arg : Byte) :
    (∃ c, arg = (selectorOf c).setWidth 8) ∨
      (decodeRequest (requestWord 3#3 arg) = .error .errArg ∧ 6 ≤ arg.toNat) := by
  have hreserved : (arg.extractLsb' 3 5).toNat = arg.toNat / 8 := by
    have := arg.isLt
    rw [BitVec.extractLsb'_toNat, Nat.shiftRight_eq_div_pow]
    omega
  have hsel : (arg.extractLsb' 0 3).toNat = arg.toNat % 8 := by rw [BitVec.extractLsb'_toNat, Nat.shiftRight_zero]
  rw [decodeRequest_op3]
  by_cases hzero : arg.extractLsb' 3 5 = 0#5
  · rw [hzero, BitVec.toNat_ofNat] at hreserved
    cases hc : commandOf (arg.extractLsb' 0 3) with
    | some c =>
      refine .inl ⟨c, BitVec.eq_of_toNat_eq ?_⟩
      rw [selectorOf_of_commandOf hc, BitVec.toNat_setWidth, hsel]
      omega
    | none =>
      have hnone := commandOf_isSome (arg.extractLsb' 0 3)
      rw [hc, hsel, Option.isSome_none, eq_comm, decide_eq_false_iff_not] at hnone
      exact .inr ⟨if_pos hzero, by omega⟩
  · have hpos : arg.toNat / 8 ≠ 0 := fun h0 => hzero (BitVec.eq_of_toNat_eq (hreserved.trans h0))
    exact .inr ⟨if_neg hzero, by omega⟩

theorem byte_eq_zero_or_pos (arg : Byte) : arg = 0#8 ∨ (arg ≠ 0#8 ∧ 1 ≤ arg.toNat) := by
  by_cases h : arg = 0#8
  · exact .inl h
  · exact .inr ⟨h, Nat.pos_of_ne_zero fun h0 => h (BitVec.eq_of_toNat_eq h0)⟩

/-- Every request word is an instruction's word, or is refused in one of the two classes of R47. -/
theorem decodeRequest_cases (w : ReqWord) :
    (∃ i, encode i = .request w) ∨ (decodeRequest w = .error .errArg ∧ ReservedArgNumber w.toNat) ∨
      (decodeRequest w = .error .errOp ∧ 0x400 ≤ w.toNat) := by
  obtain ⟨op, arg, rfl⟩ : ∃ op arg, w = requestWord op arg := ⟨_, _, (requestWord_opField_argField w).symm⟩
  have harg := arg.isLt
  have hops : ∀ op : BitVec 3, 4 ≤ op.toNat ∨ op = 0#3 ∨ op = 1#3 ∨ op = 2#3 ∨ op = 3#3 := by decide
  rw [toNat_requestWord]
  rcases hops op with hop | rfl | rfl | rfl | rfl
  · exact .inr (.inr ⟨decodeRequest_op_reserved arg hop, by omega⟩)
  · rcases byte_eq_zero_or_pos arg with rfl | ⟨hne, hpos⟩
    · exact .inl ⟨.vstart, rfl⟩
    · exact .inr (.inl ⟨by rw [decodeRequest_op0, if_neg hne], by simp only [BitVec.toNat_ofNat]; omega⟩)
  · exact .inl ⟨.vbyte arg, rfl⟩
  · rcases byte_eq_zero_or_pos arg with rfl | ⟨hne, hpos⟩
    · exact .inl ⟨.vend, rfl⟩
    · exact .inr (.inl ⟨by rw [decodeRequest_op2, if_neg hne], by simp only [BitVec.toNat_ofNat]; omega⟩)
  · rcases decodeRequest_op3_cases arg with ⟨c, rfl⟩ | ⟨hrefused, hsix⟩
    · exact .inl ⟨encForm c, encode_encForm c⟩
    · exact .inr (.inl ⟨hrefused, by simp only [BitVec.toNat_ofNat]; omega⟩)

/-- A request word decodes to exactly the instruction it is the word of (R43). -/
theorem decodeRequest_eq_ok_iff {w : ReqWord} {i : Instr} : decodeRequest w = .ok i ↔ encode i = .request w := by
  have hread : ∀ {j}, encode j = .request w → decodeRequest w = .ok j := fun {j} hj =>
    decode_request_eq_ok.mp (hj ▸ decode_encode j)
  refine ⟨fun h => ?_, hread⟩
  rcases decodeRequest_cases w with ⟨j, hj⟩ | ⟨hrefused, -⟩ | ⟨hrefused, -⟩
  · cases h.symm.trans (hread hj)
    exact hj
  · cases hrefused.symm.trans h
  · cases hrefused.symm.trans h

theorem acceptedNumber_of_encode {i : Instr} {w : ReqWord} (h : encode i = .request w) : AcceptedNumber w.toNat := by
  rcases Machine.instr_cases i with rfl | ⟨b, rfl⟩ | rfl | ⟨c, rfl⟩ | ⟨c, rfl⟩
  · cases h
    exact .inl rfl
  · cases h
    have hb := b.isLt
    rw [toNat_requestWord]
    exact .inr (.inl (by simp only [BitVec.toNat_ofNat]; omega))
  · cases h
    exact .inr (.inr (.inl rfl))
  · rw [encode_encForm] at h
    cases h
    exact .inr (.inr (.inr (by cases c <;> decide)))
  · rw [encode_cmdForm] at h
    cases h

/-- A word is accepted exactly when its number is in the accepted ranges (R47). -/
theorem decodeRequest_eq_ok_iff_number (w : ReqWord) : (∃ i, decodeRequest w = .ok i) ↔ AcceptedNumber w.toNat := by
  refine ⟨fun ⟨i, h⟩ => acceptedNumber_of_encode (decodeRequest_eq_ok_iff.mp h), fun h => ?_⟩
  rcases decodeRequest_cases w with ⟨i, hi⟩ | ⟨-, hnum⟩ | ⟨-, hnum⟩
  · exact ⟨i, decodeRequest_eq_ok_iff.mpr hi⟩
  · omega
  · omega

theorem decodeRequest_eq_errArg_iff_number (w : ReqWord) :
    decodeRequest w = .error .errArg ↔ ReservedArgNumber w.toNat := by
  rcases decodeRequest_cases w with ⟨i, hi⟩ | ⟨hrefused, hnum⟩ | ⟨hrefused, hnum⟩
  · have hnum := acceptedNumber_of_encode hi
    rw [decodeRequest_eq_ok_iff.mpr hi]
    exact ⟨nofun, by omega⟩
  · exact iff_of_true hrefused hnum
  · rw [hrefused]
    exact ⟨nofun, by omega⟩

theorem decodeRequest_eq_errOp_iff_number (w : ReqWord) :
    decodeRequest w = .error .errOp ↔ 0x400 ≤ w.toNat := by
  rcases decodeRequest_cases w with ⟨i, hi⟩ | ⟨hrefused, hnum⟩ | ⟨hrefused, hnum⟩
  · have hnum := acceptedNumber_of_encode hi
    rw [decodeRequest_eq_ok_iff.mpr hi]
    exact ⟨nofun, by omega⟩
  · rw [hrefused]
    exact ⟨nofun, by omega⟩
  · exact iff_of_true hrefused hnum

theorem decodeRequest_ne_error_ok (w : ReqWord) : decodeRequest w ≠ .error .ok := by
  intro h
  rcases decodeRequest_cases w with ⟨i, hi⟩ | ⟨hrefused, -⟩ | ⟨hrefused, -⟩
  · cases (decodeRequest_eq_ok_iff.mpr hi).symm.trans h
  · cases hrefused.symm.trans h
  · cases hrefused.symm.trans h

/-! ### How many request words are accepted -/

theorem count_of_forall_between {p : Nat → Prop} [DecidablePred p] {a b : Nat} (hab : a ≤ b)
    (h : ∀ n, a ≤ n → n < b → p n) : Nat.count p b = Nat.count p a + (b - a) := by
  obtain ⟨d, rfl⟩ := Nat.exists_eq_add_of_le hab
  rw [Nat.count_add, Nat.count_iff_forall.mpr fun k hk => h (a + k) (by omega) (by omega), Nat.add_sub_cancel_left]

theorem count_of_forall_not_between {p : Nat → Prop} [DecidablePred p] {a b : Nat} (hab : a ≤ b)
    (h : ∀ n, a ≤ n → n < b → ¬ p n) : Nat.count p b = Nat.count p a := by
  obtain ⟨d, rfl⟩ := Nat.exists_eq_add_of_le hab
  rw [Nat.count_add, Nat.count_iff_forall_not.mpr fun k hk => h (a + k) (by omega) (by omega), Nat.add_zero]

/-- The accepted numbers, counted range by range from the top (R47). -/
theorem count_acceptedNumber : Nat.count AcceptedNumber 2048 = 264 := by
  rw [count_of_forall_not_between (a := 0x306) (by omega) (by omega),
    count_of_forall_between (a := 0x300) (by omega) (by omega),
    count_of_forall_not_between (a := 0x201) (by omega) (by omega),
    count_of_forall_between (a := 0x200) (by omega) (by omega),
    count_of_forall_between (a := 0x100) (by omega) (by omega),
    count_of_forall_not_between (a := 0x001) (by omega) (by omega),
    count_of_forall_between (a := 0x000) (by omega) (by omega), Nat.count_zero]

theorem isOk_decodeRequest_ofNat {n : Nat} (hn : n < 2048) :
    (decodeRequest (BitVec.ofNat 11 n)).isOk = true ↔ AcceptedNumber n := by
  have hnum := decodeRequest_eq_ok_iff_number (BitVec.ofNat 11 n)
  rw [BitVec.toNat_ofNat, Nat.mod_eq_of_lt hn] at hnum
  rw [← hnum]
  cases decodeRequest (BitVec.ofNat 11 n) <;> simp [Except.isOk, Except.toBool]

theorem countP_isOk_decodeRequest :
    ((List.range 2048).countP fun n => (decodeRequest (BitVec.ofNat 11 n)).isOk) = 264 := by
  rw [← count_acceptedNumber, Nat.count]
  refine List.countP_congr fun n hn => ?_
  rw [isOk_decodeRequest_ofNat (List.mem_range.mp hn), decide_eq_true_iff]

/-! ### The rows of the table -/

/-- VBYTE's mask keeps the operation field of a request word's number (R43). -/
theorem and_opMask {n : Nat} (h : n < 2048) : n &&& 0x700 = 256 * (n / 256) := by
  have hhigh : (n &&& 0x700) / 2 ^ 8 = n / 256 &&& (2 ^ 3 - 1) := Nat.and_div_two_pow
  have hlow : (n &&& 0x700) % 2 ^ 8 = n % 256 &&& 0 := Nat.and_mod_two_pow
  rw [Nat.and_two_pow_sub_one_eq_mod] at hhigh
  rw [Nat.and_zero] at hlow
  omega

/-- The mask of every other request row keeps the whole number. -/
theorem and_fullMask {n : Nat} (h : n < 2048) : n &&& 0x7FF = n :=
  (Nat.and_two_pow_sub_one_eq_mod n 11).trans (Nat.mod_eq_of_lt h)

theorem acceptedNumber_of_row {r : TableRow} {n : Nat} (hn : n < 2048) (hr : r ∈ requestRows)
    (h : n &&& r.mask = r.pattern) : AcceptedNumber n := by
  simp only [requestRows, List.mem_cons, List.not_mem_nil, or_false] at hr
  rcases hr with rfl | rfl | rfl | rfl | rfl | rfl | rfl | rfl | rfl <;>
    simp only [and_opMask hn, and_fullMask hn] at h <;> omega

theorem mem_rows_request {r : TableRow} {w : ReqWord} :
    r ∈ (CodeWord.request w).rows ↔ r ∈ requestRows ∧ w.toNat &&& r.mask = r.pattern := by
  simp [CodeWord.rows, TableRow.accepts]

/-- The word of an instruction matches exactly one row, its own (R36, R43). -/
theorem rows_encode (i : Instr) : (encode i).rows.map TableRow.mnemonic = [i.mnemonic] := by
  cases i with
  | vbyte b => exact Laws.MatchesItsRow.vbyte b
  | _ => rfl

theorem rows_of_decodeRequest {w : ReqWord} {i : Instr} (h : decodeRequest w = .ok i) :
    (CodeWord.request w).rows.map TableRow.mnemonic = [i.mnemonic] := by
  rw [← decodeRequest_eq_ok_iff.mp h, rows_encode]

/-- A request word is accepted exactly when some row matches it (R43). -/
theorem decodeRequest_eq_ok_iff_row (w : ReqWord) :
    (∃ i, decodeRequest w = .ok i) ↔ ∃ r ∈ requestRows, w.toNat &&& r.mask = r.pattern := by
  constructor
  · rintro ⟨i, h⟩
    obtain ⟨r, hr, -⟩ := List.map_eq_singleton_iff.mp (rows_of_decodeRequest h)
    exact ⟨r, mem_rows_request.mp (hr ▸ List.mem_singleton_self r)⟩
  · rintro ⟨r, hr, h⟩
    exact (decodeRequest_eq_ok_iff_number w).mpr (acceptedNumber_of_row w.isLt hr h)

/-- The rows do not overlap: a word that one matches is an instruction's, which only one matches (R43). -/
theorem requestRows_disjoint {w : ReqWord} {r q : TableRow} (hr : r ∈ (CodeWord.request w).rows)
    (hq : q ∈ (CodeWord.request w).rows) : r = q := by
  obtain ⟨i, hi⟩ := (decodeRequest_eq_ok_iff_row w).mpr ⟨r, mem_rows_request.mp hr⟩
  obtain ⟨o, ho, -⟩ := List.map_eq_singleton_iff.mp (rows_of_decodeRequest hi)
  rw [ho, List.mem_singleton] at hr hq
  rw [hr, hq]

/-! ### The command words -/

/-- A 16-bit word decodes exactly when it is an opcode, to that command's wire row (R36, R37). -/
theorem decodeFrame_eq_some {w : CmdWord} {i : Instr} :
    decodeFrame w = some i ↔ ∃ c, w = opcode c ∧ i = cmdForm c := by
  constructor
  · intro h
    obtain ⟨c, hc, rfl⟩ := Option.map_eq_some_iff.mp h
    exact ⟨c, commandOfOpcode_eq_some hc, rfl⟩
  · rintro ⟨c, rfl, rfl⟩
    exact decodeFrame_opcode c

theorem highByte_opcode_injective {c d : Command} : highByte (opcode c) = highByte (opcode d) → c = d := by
  cases c <;> cases d <;> decide

theorem exists_eq_opcode {w : CmdWord} :
    (∃ c, w = opcode c) ↔ w = 0x3517#16 ∨ w = 0x805D#16 ∨ w = 0xB098#16 ∨ w = 0xEFC8#16 ∨ w = 0x58E0#16 ∨ w = 0x401A#16 := by
  constructor
  · rintro ⟨c, rfl⟩
    cases c <;> decide
  · rintro (rfl | rfl | rfl | rfl | rfl | rfl)
    exacts [⟨.wakeup, rfl⟩, ⟨.reset, rfl⟩, ⟨.sleep, rfl⟩, ⟨.readId, rfl⟩, ⟨.measureNormal, rfl⟩, ⟨.measureLowPower, rfl⟩]

/-! ### The fields of the response word -/

namespace Response
variable (r : Response)

theorem toWord_status : r.toWord.extractLsb' 17 2 = r.status.code := BitVec.extractLsb'_append_eq_left

theorem toWord_result : r.toWord.getLsbD 16 = r.result := by
  rw [toWord, BitVec.getLsbD_append, if_pos (by decide), BitVec.getLsbD_append, if_neg (by decide)]
  simp

theorem toWord_frame : r.toWord.extractLsb' 0 16 = r.frame := by
  rw [toWord, BitVec.append_assoc']
  exact BitVec.extractLsb'_append_eq_right

end Response

namespace Machine

/-! ### What a step answers, and what it does to the registers and the bus -/

/-- A response is a VEND's verdict on whole groups, an ENC's frame, or has result 0 and frame 0x0000 (R45). -/
theorem exec_response {i : Instr} {s t : State} {r : Response} (h : exec i s = .next t) (hr : t.rsp = some r) :
    (i = .vend ∧ s.crcv.pos = 0 ∧ r = ⟨.ok, verdict s.crcv, 0#16⟩) ∨
    (∃ c, i = encForm c ∧ r = ⟨.ok, false, opcode c⟩) ∨ (∃ st, r = ⟨st, false, 0#16⟩) := by
  rcases instr_cases i with rfl | ⟨b, rfl⟩ | rfl | ⟨c, rfl⟩ | ⟨c, rfl⟩
  · cases h
    cases hr
    exact .inr (.inr ⟨_, rfl⟩)
  · cases h
    cases hr
    exact .inr (.inr ⟨_, rfl⟩)
  · by_cases hpos : s.crcv.pos = 0
    · rw [exec_vend_whole hpos] at h
      cases h
      cases hr
      exact .inl ⟨rfl, hpos, rfl⟩
    · rw [exec_vend_partial hpos] at h
      cases h
      cases hr
      exact .inr (.inr ⟨_, rfl⟩)
  · rw [exec_encForm] at h
    cases h
    cases hr
    exact .inr (.inl ⟨c, rfl, rfl⟩)
  · rw [exec_cmdForm] at h
    cases h
    cases hr

/-- What the response of a step can be, by the step's task. -/
theorem step_response {s t : State} {r : Response} (h : step s = .next t) (hr : t.rsp = some r) :
    (s.task = .run .vend ∧ s.crcv.pos = 0 ∧ r = ⟨.ok, verdict s.crcv, 0#16⟩) ∨
    (∃ c, s.task = .run (encForm c) ∧ r = ⟨.ok, false, opcode c⟩) ∨ (∃ st, r = ⟨st, false, 0#16⟩) := by
  rcases step_cases h with ⟨-, rfl⟩ | ⟨-, rfl⟩ | ⟨st, -, rfl⟩ | ⟨i, htask, hexec⟩
  · cases hr
  · cases hr
  · cases hr
    exact .inr (.inr ⟨st, rfl⟩)
  · rcases exec_response hexec hr with ⟨rfl, hpos, rfl⟩ | ⟨c, rfl, rfl⟩ | hplain
    · exact .inl ⟨htask, hpos, rfl⟩
    · exact .inr (.inl ⟨c, htask, rfl⟩)
    · exact .inr (.inr hplain)

theorem step_response_clean {s t : State} {r : Response} (h : step s = .next t) (hr : t.rsp = some r) : r.Clean := by
  rcases step_response h hr with ⟨-, -, rfl⟩ | ⟨c, -, rfl⟩ | ⟨st, rfl⟩
  · exact ⟨fun hne => absurd rfl hne, .inl rfl, fun _ => rfl⟩
  · exact ⟨fun hne => absurd rfl hne, .inr ⟨c, rfl⟩, nofun⟩
  · exact ⟨fun _ => ⟨rfl, rfl⟩, .inl rfl, nofun⟩

/-- A step keeps the registers, resets them, or takes one byte. -/
theorem step_registers {s t : State} (h : step s = .next t) :
    t.crcv = s.crcv ∨ t.crcv = Crcv.reset ∨ ∃ b, t.crcv = s.crcv.take b := by
  rcases step_cases h with ⟨-, rfl⟩ | ⟨-, rfl⟩ | ⟨st, -, rfl⟩ | ⟨i, -, hexec⟩
  · exact .inl rfl
  · exact .inr (.inl rfl)
  · exact .inl rfl
  · rcases exec_registers hexec with ⟨-, hreset⟩ | ⟨b, -, htake⟩ | ⟨-, hkept⟩
    · exact .inr (.inl hreset)
    · exact .inr (.inr ⟨b, htake⟩)
    · exact .inl hkept

/-- A step leaves the bus as it was, or puts one command's frame on it (R90, R92). -/
theorem step_bus {s t : State} (h : step s = .next t) :
    t.bus = s.bus ∨ ∃ c, t.bus = s.bus ++ [frame16 (opcode c)] := by
  rcases step_cases h with ⟨-, rfl⟩ | ⟨-, rfl⟩ | ⟨st, -, rfl⟩ | ⟨i, -, hexec⟩
  · exact .inl rfl
  · exact .inl rfl
  · exact .inl rfl
  · by_cases hwire : ∃ c, i = cmdForm c
    · obtain ⟨c, rfl⟩ := hwire
      rw [exec_cmdForm] at hexec
      cases hexec
      exact .inr ⟨c, rfl⟩
    · exact .inl ((exec_bus_of_not_cmdForm hexec (not_exists.mp hwire)).trans s.popInput_bus)

/-! ### The invariant -/

/-- A data byte leaves the group unfinished and touches no other register (I-2 to I-4). -/
theorem Crcv.inv_takeData {r : Crcv} (b : Byte) (hr : r.Inv) (hpos : r.pos ≠ 2) : (r.takeData b).Inv where
  betweenGroups h0 := by
    have hval := pos_succ_val hpos
    rw [Crcv.takeData_pos] at h0
    rw [h0] at hval
    cases hval
  noFailNoGroup := hr.noFailNoGroup
  failedBefore := hr.failedBefore
  failedStrictly := hr.failedStrictly

/-- After the checksum byte a group that failed lies below GIDX, unless both are at the top: an old one because GIDX does not
fall, a new one because it is the GIDX that was counted on (I-4). -/
theorem fgrpAfter_below_satInc {r : Crcv} {b : Byte} (hr : r.Inv) (hset : failAfter r b = true) :
    (fgrpAfter r b).toNat < (satInc r.gidx).toNat ∨
      ((fgrpAfter r b).toNat = 2 ^ Config.gidxW - 1 ∧ (satInc r.gidx).toNat = 2 ^ Config.gidxW - 1) := by
  have hinc := satInc_toNat r.gidx
  have hlt := r.gidx.isLt
  cases hfail : r.fail with
  | false =>
    rw [fgrpAfter_of_fail_set hfail hset]
    omega
  | true =>
    have hold := hr.failedStrictly hfail
    rw [fgrpAfter_of_fail hfail]
    omega

theorem Crcv.inv_takeChecksum {r : Crcv} (b : Byte) (hr : r.Inv) : (r.takeChecksum b).Inv where
  betweenGroups _ := rfl
  noFailNoGroup hclear := by
    obtain ⟨hold, -⟩ := failAfter_eq_false.mp hclear
    rw [Crcv.takeChecksum_fgrp, fgrpAfter_of_fail_kept (.inr hclear), hr.noFailNoGroup hold]
  failedBefore hset := by
    have hbelow := fgrpAfter_below_satInc hr hset
    rw [Crcv.takeChecksum_fgrp, Crcv.takeChecksum_gidx]
    omega
  failedStrictly hset := fgrpAfter_below_satInc hr hset

theorem Crcv.inv_take {r : Crcv} (b : Byte) (hr : r.Inv) : (r.take b).Inv := by
  by_cases hpos : r.pos = 2
  · rw [Crcv.take_checksum b hpos]
    exact Crcv.inv_takeChecksum b hr
  · rw [Crcv.take_data b hpos]
    exact Crcv.inv_takeData b hr hpos

theorem step_registers_inv {s t : State} (hs : s.crcv.Inv) (h : step s = .next t) : t.crcv.Inv := by
  rcases step_registers h with hkept | hreset | ⟨b, htake⟩
  · rwa [hkept]
  · rw [hreset]
    exact Crcv.inv_reset
  · rw [htake]
    exact Crcv.inv_take b hs

theorem step_busCarriesCommands {s t : State} (hs : s.BusCarriesCommands) (h : step s = .next t) :
    t.BusCarriesCommands := by
  intro f hf
  rcases step_bus h with hkept | ⟨c, hwrite⟩
  · exact hs f (hkept ▸ hf)
  · rw [hwrite, List.mem_append, List.mem_singleton] at hf
    rcases hf with hold | rfl
    · exact hs f hold
    · exact ⟨c, rfl⟩

/-! ### The obligations -/

/-- Settles O1: each instruction's word decodes to it. -/
theorem decodeOfEncodeIsTheInstruction : Obligations.DecodeOfEncodeIsTheInstruction := decode_encode

/-- Settles O35: the registers, the bus and the response each have what they need after every step. -/
theorem everyStepKeepsTheInvariant : Obligations.EveryStepKeepsTheInvariant := fun _ _ hs h =>
  { registers := step_registers_inv hs.registers h
    bus := step_busCarriesCommands hs.bus h
    response := fun _ hr => step_response_clean h hr }

/-- Settles O2: a request word that decodes is an encoded word, and a command word that decodes is its opcode. -/
theorem encodeOfDecodeIsTheWord : Obligations.EncodeOfDecodeIsTheWord := by
  intro c i h
  cases c with
  | request w => exact decodeRequest_eq_ok_iff.mp (decode_request_eq_ok.mp h)
  | frame w =>
    obtain ⟨c, rfl, rfl⟩ := decodeFrame_eq_some.mp (decode_frame_eq_ok.mp h)
    exact encode_cmdForm c

/-- Settles O3: a matching row puts the word's number in an accepted range, and an accepted word has one row only. -/
theorem requestIsAcceptedExactlyOnARow : Obligations.RequestIsAcceptedExactlyOnARow := fun w =>
  ⟨decodeRequest_eq_ok_iff_row w,
    fun _ hr _ hq hrow hrow' => requestRows_disjoint (mem_rows_request.mpr ⟨hr, hrow⟩) (mem_rows_request.mpr ⟨hq, hrow'⟩),
    fun _ => rows_of_decodeRequest,
    fun _ h hok => decodeRequest_ne_error_ok w (hok ▸ h)⟩

/-- Settles O4: the classes by the word's number, their count, and the step's equation on a word that is refused. -/
theorem reservedWordsAreRefusedByClass : Obligations.ReservedWordsAreRefusedByClass :=
  ⟨fun w => ⟨decodeRequest_eq_errOp_iff_number w, decodeRequest_eq_errArg_iff_number w, decodeRequest_eq_ok_iff_number w⟩,
    countP_isOk_decodeRequest, fun s w rest st h => by rw [step_request, h]⟩

/-- Settles O6: the decoder finds exactly the opcodes, whose first bytes differ. -/
theorem exactlySixWordsAreCommands : Obligations.ExactlySixWordsAreCommands := by
  refine ⟨fun _ _ => decodeFrame_eq_some, fun _ _ => highByte_opcode_injective, fun w => ?_⟩
  rw [← exists_eq_opcode, Option.ne_none_iff_exists']
  exact ⟨fun ⟨_, h⟩ => (decodeFrame_eq_some.mp h).imp fun _ => And.left, fun ⟨c, h⟩ => ⟨_, h ▸ decodeFrame_opcode c⟩⟩

/-- Settles O18: only the first case of `step_response` can have result 1 and only the second a frame. -/
theorem onlyVendGivesAVerdictAndOnlyEncAFrame : Obligations.OnlyVendGivesAVerdictAndOnlyEncAFrame := by
  intro s t r h hr
  rcases step_response h hr with ⟨htask, hpos, rfl⟩ | ⟨c, htask, rfl⟩ | ⟨st, rfl⟩
  · exact ⟨fun hverdict => ⟨htask, hpos, Bool.not_eq_true' s.crcv.fail |>.mp hverdict⟩, fun hne => absurd rfl hne⟩
  · exact ⟨nofun, fun _ => ⟨rfl, c, htask, rfl⟩⟩
  · exact ⟨nofun, fun hne => absurd rfl hne⟩

/-- Settles O5: the decoder computes on the nine words. -/
theorem specWordsDecodeAsWritten : Obligations.SpecWordsDecodeAsWritten :=
  ⟨rfl, rfl, rfl, rfl, rfl, rfl, rfl, rfl, rfl⟩

/-- Settles O8: the three fields are the parts that `Response.toWord` joins, and the codes are its table. -/
theorem responseWordHasItsFields : Obligations.ResponseWordHasItsFields :=
  ⟨fun r => ⟨r.toWord_status, r.toWord_result, r.toWord_frame⟩, rfl, rfl, rfl, rfl⟩

/-- Settles O14: the step's equation on two bytes handed over, where no command decodes. -/
theorem strayFrameIsRefusedByName : Obligations.StrayFrameIsRefusedByName := by
  intro s b0 b1 rest h
  rw [step_handOver, wordOfBytes, h]

end Machine
end Sys2Proof
end

section
/-! The validator family, the buffer (spec/40_crc_validator.md R60 to R65): a buffer is its whole groups and the unfinished group
behind them, so that a byte pushed onto a buffer moves the registers of that buffer as `Crcv.take` does. -/

namespace Sys2Proof.Machine

/-! ### A buffer by its groups -/

theorem firstBadGroup_group (d0 d1 c : Byte) (s : List Byte) :
    firstBadGroup (d0 :: d1 :: c :: s) = if groupOk d0 d1 c then (firstBadGroup s).map (· + 1) else some 0 := rfl

theorem firstBadGroup_of_length_lt : ∀ {s : List Byte}, s.length < 3 → firstBadGroup s = none
  | [], _ => rfl
  | [_], _ => rfl
  | [_, _], _ => rfl
  | _ :: _ :: _ :: s, h => absurd h (by simp only [List.length_cons]; omega)

/-- The first bad group behind whole groups is counted on from their number. -/
theorem firstBadGroup_append (v : List Byte) : ∀ {u : List Byte}, u.length % 3 = 0 →
    firstBadGroup (u ++ v) = (firstBadGroup u).or ((firstBadGroup v).map (· + u.length / 3))
  | [], _ => by simp [firstBadGroup]
  | [_], h => by cases h
  | [_, _], h => by cases h
  | d0 :: d1 :: c :: u, h => by
    have hlength : (d0 :: d1 :: c :: u).length = u.length + 3 := rfl
    have ih := firstBadGroup_append v (u := u) (by omega)
    rw [List.cons_append, List.cons_append, List.cons_append, firstBadGroup_group, firstBadGroup_group, ih, hlength]
    by_cases hgood : groupOk d0 d1 c = true
    · simp [hgood, Option.map_or, Function.comp_def, Nat.add_assoc]
    · simp [hgood]

/-- The bytes of the whole groups; with `partialGroup` they are the buffer (R65). -/
def wholeGroups (s : List Byte) : List Byte := s.take (s.length / 3 * 3)

theorem partialGroup_eq_drop (s : List Byte) : partialGroup s = s.drop (s.length / 3 * 3) := rfl

theorem wholeGroups_append_partialGroup (s : List Byte) : wholeGroups s ++ partialGroup s = s :=
  List.take_append_drop _ s

theorem length_wholeGroups (s : List Byte) : (wholeGroups s).length = s.length / 3 * 3 := by
  rw [wholeGroups, List.length_take]
  omega

theorem length_partialGroup (s : List Byte) : (partialGroup s).length = s.length % 3 := by
  rw [partialGroup_eq_drop, List.length_drop]
  omega

/-- Behind a buffer's whole groups, bytes put after its unfinished group can only add a bad group of their own. -/
theorem firstBadGroup_append_partial (s v : List Byte) :
    firstBadGroup (s ++ v) =
      (firstBadGroup (wholeGroups s)).or ((firstBadGroup (partialGroup s ++ v)).map (· + s.length / 3)) := by
  have hlength := length_wholeGroups s
  conv_lhs => rw [← wholeGroups_append_partialGroup s, List.append_assoc]
  rw [firstBadGroup_append _ (by omega), show (wholeGroups s).length / 3 = s.length / 3 by omega]

/-- The unfinished group is not judged (R27, R65). -/
theorem firstBadGroup_wholeGroups (s : List Byte) : firstBadGroup (wholeGroups s) = firstBadGroup s := by
  have hlength := length_partialGroup s
  have hpartial : firstBadGroup (partialGroup s) = none := firstBadGroup_of_length_lt (by omega)
  simpa [hpartial] using (firstBadGroup_append_partial s []).symm

/-! ### One more byte -/

/-- A data byte completes no group. -/
theorem firstBadGroup_concat_data {s : List Byte} (b : Byte) (h : s.length % 3 ≠ 2) :
    firstBadGroup (s ++ [b]) = firstBadGroup s := by
  have hlength := length_partialGroup s
  have hpartial : firstBadGroup (partialGroup s ++ [b]) = none :=
    firstBadGroup_of_length_lt (by rw [List.length_append, List.length_singleton]; omega)
  rw [firstBadGroup_append_partial, hpartial, firstBadGroup_wholeGroups, Option.map_none, Option.or_none]

/-- A checksum byte completes a group, which is bad exactly when the byte is not the CRC of the two before it. -/
theorem firstBadGroup_concat_checksum {s : List Byte} (b : Byte) (h : s.length % 3 = 2) :
    firstBadGroup (s ++ [b]) =
      (firstBadGroup s).or (if b = crc8 (partialGroup s) then none else some (s.length / 3)) := by
  have hlength := length_partialGroup s
  rw [h] at hlength
  obtain ⟨d0, d1, hpartial⟩ := List.length_eq_two.mp hlength
  rw [firstBadGroup_append_partial, firstBadGroup_wholeGroups, hpartial]
  congr 1
  by_cases hb : b = crc8 [d0, d1]
  · simp [firstBadGroup, groupOk, hb]
  · simp [firstBadGroup, groupOk, hb, Ne.symm hb]

theorem partialGroup_concat_data {s : List Byte} (b : Byte) (h : s.length % 3 ≠ 2) :
    partialGroup (s ++ [b]) = partialGroup s ++ [b] := by
  rw [partialGroup_eq_drop, partialGroup_eq_drop, ← List.drop_append_of_le_length (by omega), List.length_append, List.length_singleton]
  congr 1
  omega

theorem partialGroup_concat_checksum {s : List Byte} (b : Byte) (h : s.length % 3 = 2) :
    partialGroup (s ++ [b]) = [] :=
  List.eq_nil_of_length_eq_zero (by
    rw [length_partialGroup, List.length_append, List.length_singleton]
    omega)

theorem crc8_concat (s : List Byte) (b : Byte) : crc8 (s ++ [b]) = crc8Byte (crc8 s) b := crc8From_append _ s [b]

/-! ### The registers of a buffer -/

@[ext] theorem Crcv.ext {r q : Crcv} (crc : r.crc = q.crc) (pos : r.pos = q.pos) (gidx : r.gidx = q.gidx)
    (fail : r.fail = q.fail) (fgrp : r.fgrp = q.fgrp) : r = q := by
  cases r
  cases q
  rw [Crcv.mk.injEq]
  exact ⟨crc, pos, gidx, fail, fgrp⟩

section registersFor
variable (s : List Byte)
@[simp] theorem registersFor_crc : (registersFor s).crc = crc8 (partialGroup s) := rfl
@[simp] theorem registersFor_pos_val : (registersFor s).pos.val = s.length % 3 := rfl
@[simp] theorem registersFor_fail : (registersFor s).fail = (firstBadGroup s).isSome := rfl

theorem registersFor_gidx : (registersFor s).gidx = BitVec.ofNat Config.gidxW (min (s.length / 3) 255) := rfl

theorem registersFor_fgrp :
    (registersFor s).fgrp = BitVec.ofNat Config.gidxW (min ((firstBadGroup s).getD 0) 255) := rfl

end registersFor

theorem registersFor_nil : registersFor [] = Crcv.reset := rfl

theorem toNat_counter (n : Nat) : (BitVec.ofNat Config.gidxW (min n 255)).toNat = min n 255 := by
  rw [BitVec.toNat_ofNat, Nat.mod_eq_of_lt]
  exact Nat.lt_of_le_of_lt (Nat.min_le_right n 255) (by decide)

theorem satInc_counter (n : Nat) :
    satInc (BitVec.ofNat Config.gidxW (min n 255)) = BitVec.ofNat Config.gidxW (min (n + 1) 255) := by
  apply BitVec.eq_of_toNat_eq
  rw [satInc_toNat, toNat_counter, toNat_counter, show 2 ^ Config.gidxW - 1 = 255 from rfl]
  omega

theorem registersFor_pos_eq_two {s : List Byte} : (registersFor s).pos = 2 ↔ s.length % 3 = 2 := Fin.ext_iff

theorem registersFor_pos_eq_zero {s : List Byte} : (registersFor s).pos = 0 ↔ s.length % 3 = 0 := Fin.ext_iff

theorem registersFor_concat_data {s : List Byte} (b : Byte) (h : s.length % 3 ≠ 2) :
    registersFor (s ++ [b]) = (registersFor s).takeData b := by
  have hpos : (registersFor s).pos ≠ 2 := fun h2 => h (registersFor_pos_eq_two.mp h2)
  have hcount : (s ++ [b]).length = s.length + 1 := by simp
  ext1
  case crc => rw [registersFor_crc, partialGroup_concat_data b h, crc8_concat, Crcv.takeData_crc, registersFor_crc]
  case pos =>
    rw [Fin.ext_iff, Crcv.takeData_pos, pos_succ_val hpos, registersFor_pos_val, registersFor_pos_val, hcount]
    omega
  case gidx =>
    rw [Crcv.takeData_gidx, registersFor_gidx, registersFor_gidx, hcount, show (s.length + 1) / 3 = s.length / 3 by omega]
  case fail => rw [registersFor_fail, firstBadGroup_concat_data b h, Crcv.takeData_fail, registersFor_fail]
  case fgrp => rw [registersFor_fgrp, firstBadGroup_concat_data b h, Crcv.takeData_fgrp, registersFor_fgrp]

theorem registersFor_concat_checksum {s : List Byte} (b : Byte) (h : s.length % 3 = 2) :
    registersFor (s ++ [b]) = (registersFor s).takeChecksum b := by
  have hcount : (s ++ [b]).length = s.length + 1 := by simp
  have hbad := firstBadGroup_concat_checksum b h
  ext1
  case crc => rw [registersFor_crc, partialGroup_concat_checksum b h]; rfl
  case pos =>
    rw [Crcv.takeChecksum_pos, registersFor_pos_eq_zero, hcount]
    omega
  case gidx =>
    rw [Crcv.takeChecksum_gidx, registersFor_gidx, registersFor_gidx, satInc_counter, hcount,
      show (s.length + 1) / 3 = s.length / 3 + 1 by omega]
  case fail =>
    rw [registersFor_fail, hbad, Crcv.takeChecksum_fail, failAfter, registersFor_fail, registersFor_crc, Option.isSome_or]
    by_cases hb : b = crc8 (partialGroup s)
    · simp [hb]
    · simp [hb]
  case fgrp =>
    rw [registersFor_fgrp, hbad, Crcv.takeChecksum_fgrp]
    cases hfirst : firstBadGroup s with
    | some k =>
      rw [fgrpAfter_of_fail (by simp [hfirst]), registersFor_fgrp, hfirst, Option.some_or]
    | none =>
      by_cases hb : b = crc8 (partialGroup s)
      · subst hb
        rw [← registersFor_crc, fgrpAfter_of_match, registersFor_fgrp, hfirst]
        simp
      · rw [fgrpAfter_of_mismatch (by simp [hfirst]) hb, registersFor_gidx]
        simp [hb]

/-- Pushing a byte onto a buffer moves its registers as taking the byte does (R63, R65). -/
theorem registersFor_concat (s : List Byte) (b : Byte) : registersFor (s ++ [b]) = (registersFor s).take b := by
  by_cases h : s.length % 3 = 2
  · rw [Crcv.take_checksum b (registersFor_pos_eq_two.mpr h), registersFor_concat_checksum b h]
  · rw [Crcv.take_data b (mt registersFor_pos_eq_two.mp h), registersFor_concat_data b h]

theorem bufferAfter_of_not_writesRegisters (buffer : List Byte) {i : Instr} (h : writesRegisters i = false) :
    bufferAfter buffer i = buffer := by
  cases i with
  | vstart => cases h
  | vbyte b => cases h
  | _ => rfl

theorem exec_registersFor {i : Instr} {s t : State} {buffer : List Byte} (hs : s.crcv = registersFor buffer)
    (h : exec i s = .next t) : t.crcv = registersFor (bufferAfter buffer i) := by
  rcases exec_registers h with ⟨rfl, hreset⟩ | ⟨b, rfl, htake⟩ | ⟨hw, hkept⟩
  · exact hreset.trans registersFor_nil.symm
  · rw [htake, hs, ← registersFor_concat]
    rfl
  · rw [hkept, hs, bufferAfter_of_not_writesRegisters buffer hw]

/-! ### The obligations -/

/-- Settles O44: `registersFor` follows the buffer through VSTART and VBYTE, and every other instruction keeps both. -/
theorem everyInstructionKeepsTheRegistersOfTheBuffer : Obligations.EveryInstructionKeepsTheRegistersOfTheBuffer :=
  fun _ _ _ _ => exec_registersFor

/-- Settles O45: by the step's task; a step that runs an instruction is O44. -/
theorem everyStepKeepsTheRegistersOfTheBuffer : Obligations.EveryStepKeepsTheRegistersOfTheBuffer := by
  intro s t buffer hs h
  rcases step_cases h with ⟨htask, rfl⟩ | ⟨htask, rfl⟩ | ⟨st, htask, rfl⟩ | ⟨i, htask, hexec⟩
  · simp [htask, hs]
  · simp [htask, registersFor_nil]
  · simp [htask, hs]
  · simpa [htask] using exec_registersFor (s := s.popInput) hs hexec

end Sys2Proof.Machine
end

section
/-! The validator family, the checksum (spec/40_crc_validator.md R70): shifting the register is linear over the two-element
field, so an error in a group adds its own syndrome to the residue. The syndrome of one bit has an odd number of ones, and so
has that of three. -/

namespace Sys2Proof.Machine

/-! ### Residue and table form -/

theorem crc8Byte_eq_shift (c b : Byte) : crc8Byte c b = crc8Shift 8 (c ^^^ b) := rfl

theorem crc8Byte_xor (c c' b b' : Byte) : crc8Byte (c ^^^ c') (b ^^^ b') = crc8Byte c b ^^^ crc8Byte c' b' := by
  rw [crc8Byte_eq_shift, crc8Byte_eq_shift, crc8Byte_eq_shift, ← crc8Shift_xor]
  congr 1
  ac_rfl

theorem crc8Byte_table (c b : Byte) : crc8Byte c b = crc8Byte 0#8 (c ^^^ b) := by
  rw [crc8Byte_eq_shift, crc8Byte_eq_shift, BitVec.zero_xor]

/-- No shift loses the register: bit 0 of the polynomial shows a 1 that is shifted out. -/
theorem crc8Bit_eq_zero : ∀ {c : Byte}, crc8Bit c = 0#8 → c = 0#8 := by decide

theorem crc8Shift_eq_zero {c : Byte} (n : Nat) (h : crc8Shift n c = 0#8) : c = 0#8 := by
  induction n generalizing c with
  | zero => exact h
  | succ n ih => exact crc8Bit_eq_zero (ih h)

theorem crc8Shift_zero (n : Nat) : crc8Shift n 0#8 = 0#8 := by
  induction n with
  | zero => rfl
  | succ n ih => exact ih

/-- A byte step gives 0 exactly on the byte that equals the register (R70 (a)). -/
theorem crc8Byte_eq_zero_iff {c b : Byte} : crc8Byte c b = 0#8 ↔ c = b := by
  rw [← BitVec.xor_eq_zero_iff (x := c), crc8Byte_eq_shift]
  exact ⟨crc8Shift_eq_zero 8, fun h => by rw [h, crc8Shift_zero]⟩

theorem crc8Byte_zero_injective : Function.Injective (crc8Byte 0#8) := by
  intro a b h
  have hdiff : crc8Byte a b = 0#8 := calc
    crc8Byte a b = crc8Byte (0#8 ^^^ 0#8) (a ^^^ b) := crc8Byte_table a b
    _ = crc8Byte 0#8 a ^^^ crc8Byte 0#8 b := crc8Byte_xor 0#8 0#8 a b
    _ = 0#8 := by rw [h, BitVec.xor_self]
  exact crc8Byte_eq_zero_iff.mp hdiff

theorem crc8_group_eq_zero_iff (d0 d1 c : Byte) : crc8 [d0, d1, c] = 0#8 ↔ c = crc8 [d0, d1] := by
  rw [show [d0, d1, c] = [d0, d1] ++ [c] from rfl, crc8_concat, crc8Byte_eq_zero_iff, eq_comm]

/-- Settles O38: a byte step is 0 exactly when the byte is the register, and is linear, hence injective on the 256 bytes. -/
theorem residueAndTableForm : Obligations.ResidueAndTableForm :=
  ⟨crc8_group_eq_zero_iff, crc8Byte_table, Finite.injective_iff_bijective.mp crc8Byte_zero_injective,
    crc8Byte_eq_zero_iff.mpr rfl⟩

/-! ### The xor trees -/

/-- A shift moves every bit up by one and puts bit 7 where the polynomial has a 1: at bits 0, 4 and 5. -/
theorem crc8Bit_bits (c : Byte) :
    let x (k : Nat) : Bool := c.getLsbD k
    let n (k : Nat) : Bool := (crc8Bit c).getLsbD k
    n 0 = x 7 ∧ n 1 = x 0 ∧ n 2 = x 1 ∧ n 3 = x 2 ∧ n 4 = (x 3 ^^ x 7) ∧ n 5 = (x 4 ^^ x 7) ∧ n 6 = x 5 ∧ n 7 = x 6 := by
  revert c
  decide

/-- Settles O39: the shift's effect on each bit, eight times over, with equal bits cancelled. -/
theorem parallelFormOfTheByteStep : Obligations.ParallelFormOfTheByteStep := by
  intro c b
  rw [crc8Byte_eq_shift]
  generalize c ^^^ b = x
  simp only [crc8Shift, crc8Bit_bits]
  simp [Bool.xor_comm, Bool.xor_left_comm]

/-! ### Errors in a group -/

/-- The three bytes of a group as one 24-bit word, the first byte highest (R70 (e)). -/
def groupBytes (g : BitVec 24) : List Byte := [g.extractLsb' 16 8, g.extractLsb' 8 8, g.extractLsb' 0 8]

theorem groupBytes_append (d0 d1 c : Byte) : groupBytes (d0 ++ d1 ++ c) = [d0, d1, c] := by
  have h0 : (d0 ++ d1 ++ c).extractLsb' 16 8 = d0 := by
    rw [BitVec.extractLsb'_append_eq_of_le (by decide), BitVec.extractLsb'_append_eq_left]
  have h1 : (d0 ++ d1 ++ c).extractLsb' 8 8 = d1 := by
    rw [BitVec.extractLsb'_append_eq_of_le (by decide), BitVec.extractLsb'_append_eq_right]
  have h2 : (d0 ++ d1 ++ c).extractLsb' 0 8 = c := BitVec.extractLsb'_append_eq_right
  exact congrArg₂ _ h0 (congrArg₂ _ h1 (congrArg₂ _ h2 rfl))

/-- What an error does to the residue of a group. -/
def syndrome (e : BitVec 24) : Byte := crc8From 0#8 (groupBytes e)

theorem crc8From_groupBytes_xor (c c' : Byte) (g e : BitVec 24) :
    crc8From (c ^^^ c') (groupBytes (g ^^^ e)) = crc8From c (groupBytes g) ^^^ crc8From c' (groupBytes e) := by
  simp [groupBytes, BitVec.extractLsb'_xor, crc8Byte_xor]

theorem crc8_groupBytes_xor (g e : BitVec 24) : crc8 (groupBytes (g ^^^ e)) = crc8 (groupBytes g) ^^^ syndrome e :=
  crc8From_groupBytes_xor Config.crcInit 0#8 g e

theorem syndrome_xor (e f : BitVec 24) : syndrome (e ^^^ f) = syndrome e ^^^ syndrome f :=
  crc8From_groupBytes_xor 0#8 0#8 e f

/-- A group is good exactly when its residue is 0 (R70 (a)). -/
theorem groupOk_extract_iff (g : BitVec 24) :
    groupOk (g.extractLsb' 16 8) (g.extractLsb' 8 8) (g.extractLsb' 0 8) = true ↔ crc8 (groupBytes g) = 0#8 := by
  rw [groupOk, beq_iff_eq, eq_comm, ← crc8_group_eq_zero_iff, groupBytes]

/-- Whether the number of ones among the lowest `n` bits is odd. -/
def oddOnes (c : Byte) : Nat → Bool
  | 0 => false
  | n + 1 => oddOnes c n ^^ c.getLsbD n

theorem oddOnes_xor (a b : Byte) (n : Nat) : oddOnes (a ^^^ b) n = (oddOnes a n ^^ oddOnes b n) := by
  induction n with
  | zero => rfl
  | succ n ih =>
    rw [oddOnes, oddOnes, oddOnes, ih, BitVec.getLsbD_xor, Bool.xor_assoc, Bool.xor_assoc,
      Bool.xor_left_comm (oddOnes b n)]

theorem ne_zero_of_oddOnes {c : Byte} (h : oddOnes c 8 = true) : c ≠ 0#8 := by
  rintro rfl
  cases h

/-- The error that inverts bit `i`. -/
abbrev bitError (i : Fin 24) : BitVec 24 := 1#24 <<< i.val

theorem getLsbD_bitError (i : Fin 24) {m : Nat} (hm : m < 24) : (bitError i).getLsbD m = decide (m = i.val) := by
  rw [BitVec.getLsbD_shiftLeft, BitVec.getLsbD_one]
  by_cases h : m = i.val
  · simp [h]
  · simp [h, hm]
    omega

/-- Inverting a bit that an error leaves alone is one more term of its sum. -/
theorem or_bitError {e : BitVec 24} {i : Fin 24} (h : e.getLsbD i.val = false) : e ||| bitError i = e ^^^ bitError i := by
  refine BitVec.eq_of_getLsbD_eq fun m hm => ?_
  rw [BitVec.getLsbD_or, BitVec.getLsbD_xor, getLsbD_bitError i hm]
  by_cases hi : m = i.val
  · rw [hi, h, Bool.false_or, Bool.false_xor]
  · simp [hi]

theorem getLsbD_bitError_of_ne {i j : Fin 24} (h : i ≠ j) : (bitError i).getLsbD j.val = false := by
  rw [getLsbD_bitError i j.isLt, decide_eq_false_iff_not]
  exact Fin.val_ne_of_ne h.symm

theorem bitError_or_bitError {i j : Fin 24} (h : i ≠ j) : bitError i ||| bitError j = bitError i ^^^ bitError j :=
  or_bitError (getLsbD_bitError_of_ne h)

theorem bitError_or_bitError_or_bitError {i j k : Fin 24} (hij : i ≠ j) (hik : i ≠ k) (hjk : j ≠ k) :
    bitError i ||| bitError j ||| bitError k = bitError i ^^^ bitError j ^^^ bitError k := by
  rw [bitError_or_bitError hij]
  exact or_bitError (by rw [BitVec.getLsbD_xor, getLsbD_bitError_of_ne hik, getLsbD_bitError_of_ne hjk, Bool.xor_self])

/-- A single-bit error has a syndrome with an odd number of ones. -/
theorem oddOnes_syndrome_bitError : ∀ i : Fin 24, oddOnes (syndrome (bitError i)) 8 = true := by decide +kernel

/-- Two single-bit errors have different syndromes. -/
theorem syndrome_bitError_injective : ∀ i j : Fin 24, syndrome (bitError i) = syndrome (bitError j) → i = j := by
  decide +kernel

theorem syndrome_one_ne_zero (i : Fin 24) : syndrome (bitError i) ≠ 0#8 :=
  ne_zero_of_oddOnes (oddOnes_syndrome_bitError i)

theorem syndrome_two_ne_zero (i j : Fin 24) : syndrome (bitError i ||| bitError j) ≠ 0#8 := by
  by_cases hij : i = j
  · rw [hij, BitVec.or_self]
    exact syndrome_one_ne_zero j
  · rw [bitError_or_bitError hij, syndrome_xor, Ne, BitVec.xor_eq_zero_iff]
    exact mt (syndrome_bitError_injective i j) hij

/-- The syndrome of three different bits has an odd number of ones again; any fewer bits are an error of two. -/
theorem syndrome_three_ne_zero (i j k : Fin 24) : syndrome (bitError i ||| bitError j ||| bitError k) ≠ 0#8 := by
  by_cases hij : i = j
  · rw [hij, BitVec.or_self]
    exact syndrome_two_ne_zero j k
  by_cases hik : i = k
  · rw [hik, BitVec.or_assoc, BitVec.or_comm, BitVec.or_assoc, BitVec.or_self]
    exact syndrome_two_ne_zero j k
  by_cases hjk : j = k
  · rw [hjk, BitVec.or_assoc, BitVec.or_self]
    exact syndrome_two_ne_zero i k
  · refine ne_zero_of_oddOnes ?_
    rw [bitError_or_bitError_or_bitError hij hik hjk, syndrome_xor, syndrome_xor, oddOnes_xor, oddOnes_xor]
    simp only [oddOnes_syndrome_bitError]
    rfl

/-- Settles O40: a good group has residue 0, so the residue after an error is the error's syndrome. -/
theorem upToThreeBitErrorsAreDetected : Obligations.UpToThreeBitErrorsAreDetected := by
  intro d0 d1 group good
  have hgroup : crc8 (groupBytes group) = 0#8 := by rw [groupBytes_append, crc8_group_eq_zero_iff]
  have herror : ∀ e, good (group ^^^ e) = true ↔ syndrome e = 0#8 := fun e =>
    (groupOk_extract_iff (group ^^^ e)).trans (by rw [crc8_groupBytes_xor, hgroup, BitVec.zero_xor])
  refine ⟨(groupOk_extract_iff group).mpr hgroup, fun i j k => ?_, (herror _).mpr (by decide +kernel)⟩
  exact Bool.eq_false_iff.mpr (mt (herror _).mp (syndrome_three_ne_zero i j k))
end Sys2Proof.Machine
end

section
/-! The validator family, requests and programs (spec/40_crc_validator.md R60 to R69): what the validator says of a buffer, what
VEND answers, and what a whole program leaves, packaged once as an induction over its instructions. -/

namespace Sys2Proof.Machine

/-! ### The validator -/

/-- Group `g` of the buffer is whole and good (R59, R60). -/
def GroupGoodAt (s : List Byte) (g : Nat) : Prop :=
  ∃ d0 d1 c, s[3 * g]? = some d0 ∧ s[3 * g + 1]? = some d1 ∧ s[3 * g + 2]? = some c ∧ crc8 [d0, d1] = c

theorem groupGoodAt_zero {d0 d1 c : Byte} {s : List Byte} :
    GroupGoodAt (d0 :: d1 :: c :: s) 0 ↔ groupOk d0 d1 c = true := by
  rw [groupOk, beq_iff_eq, eq_comm (b := c)]
  simp [GroupGoodAt]

theorem groupGoodAt_succ {d0 d1 c : Byte} {s : List Byte} {g : Nat} :
    GroupGoodAt (d0 :: d1 :: c :: s) (g + 1) ↔ GroupGoodAt s g := Iff.rfl

theorem groupsOk_iff : ∀ s : List Byte, groupsOk s = true ↔ ∀ g < s.length / 3, GroupGoodAt s g
  | [] => by simp [groupsOk]
  | [_] => by simp [groupsOk]
  | [_, _] => by simp [groupsOk]
  | d0 :: d1 :: c :: s => by
    have hgroups : (d0 :: d1 :: c :: s).length / 3 = s.length / 3 + 1 := Nat.add_div_right s.length (Nat.succ_pos 2)
    rw [groupsOk_group, Bool.and_eq_true, groupsOk_iff s, hgroups, Nat.forall_lt_succ_left, groupGoodAt_zero]
    simp only [groupGoodAt_succ]

theorem validate_of_whole {s : List Byte} (h : s.length % 3 = 0) : validate s = some (groupsOk s) := if_pos h

theorem validate_of_partial {s : List Byte} (h : s.length % 3 ≠ 0) : validate s = none := if_neg h

theorem validate_eq_none_iff {s : List Byte} : validate s = none ↔ s.length % 3 ≠ 0 := by
  by_cases h : s.length % 3 = 0
  · simp [validate_of_whole h, h]
  · simp [validate_of_partial h, h]

theorem validate_eq_some_iff {s : List Byte} {v : Bool} :
    validate s = some v ↔ s.length % 3 = 0 ∧ groupsOk s = v := by
  by_cases h : s.length % 3 = 0
  · simp [validate_of_whole h, h]
  · simp [validate_of_partial h, h]

/-- Settles O41: by the groups, from the front. -/
theorem validateIsTheConjunctionOverGroups : Obligations.ValidateIsTheConjunctionOverGroups := fun s =>
  ⟨validate_eq_none_iff, fun h => validate_eq_some_iff.trans ((and_iff_right h).trans (groupsOk_iff s))⟩

/-- FAIL is 0 exactly when the whole groups are good (R65). -/
theorem verdict_registersFor (s : List Byte) : verdict (registersFor s) = groupsOk s := by
  rw [Bool.eq_iff_iff, ← firstBadGroup_eq_none, verdict, registersFor_fail]
  simp

/-! ### VEND on a buffer -/

theorem exec_vend_registersFor {s : State} {buffer : List Byte} (hs : s.crcv = registersFor buffer) :
    exec .vend s = .next (s.respond (verdictResponse buffer).status (verdictResponse buffer).result 0#16) := by
  by_cases h : buffer.length % 3 = 0
  · rw [exec_vend_whole (by rw [hs, registersFor_pos_eq_zero, h]), hs, verdict_registersFor, verdictResponse,
      validate_of_whole h]
  · rw [exec_vend_partial (by rwa [hs, Ne, registersFor_pos_eq_zero]), verdictResponse, validate_of_partial h]
    rfl

/-- Settles O46: VEND's answer on a buffer, by the value `validate` has there. -/
theorem vendAnswersTheValidatorOnTheBuffer : Obligations.VendAnswersTheValidatorOnTheBuffer := by
  intro s buffer hs
  refine ⟨_, exec_vend_registersFor hs, rfl, fun v hv => ?_, fun hnone => ?_⟩
  · rw [State.respond_rsp, verdictResponse, hv]
  · rw [State.respond_rsp, verdictResponse, hnone]

/-! ### Programs -/

theorem runProgram_append {p q : List Instr} {s t : State} (h : runProgram p s = .next t) :
    runProgram (p ++ q) s = runProgram q t := by
  induction p generalizing s with
  | nil =>
    cases h
    rfl
  | cons i p ih =>
    obtain ⟨u, hu⟩ := exec_total i s
    rw [runProgram_cons p hu] at h
    rw [List.cons_append, runProgram_cons (p ++ q) hu, ih h]

theorem runProgram_concat {p : List Instr} {i : Instr} {s t u : State} (hp : runProgram p s = .next t)
    (hi : exec i t = .next u) : runProgram (p ++ [i]) s = .next u := by
  rw [runProgram_append hp, runProgram_cons [] hi, runProgram_nil]

/-- Every program runs through, and what each of its instructions keeps holds at its end; `a` follows the instructions as
`f` says. -/
theorem runProgram_keeps {α : Type} (f : α → Instr → α) {I : α → State → Prop} {p : List Instr}
    (hstep : ∀ i ∈ p, ∀ a s t, I a s → exec i s = .next t → I (f a i) t) {a : α} {s : State} (hs : I a s) :
    ∃ t, runProgram p s = .next t ∧ I (p.foldl f a) t := by
  induction p generalizing a s with
  | nil => exact ⟨s, rfl, hs⟩
  | cons i p ih =>
    obtain ⟨u, hu⟩ := exec_total i s
    rw [runProgram_cons p hu]
    exact ih (fun j hj => hstep j (List.mem_cons_of_mem i hj)) (hstep i List.mem_cons_self a s u hs hu)

/-- The same for what no instruction of the program moves. -/
theorem runProgram_invariant {I : State → Prop} {p : List Instr}
    (hstep : ∀ i ∈ p, ∀ s t, I s → exec i s = .next t → I t) {s : State} (hs : I s) :
    ∃ t, runProgram p s = .next t ∧ I t :=
  runProgram_keeps (fun (_ : Unit) _ => ()) (I := fun _ => I) (fun i hi _ => hstep i hi) (a := ()) hs

/-- After any program from reset the registers are those of its current buffer (R65). -/
theorem runProgram_registersFor (p : List Instr) :
    ∃ t, runProgram p State.reset = .next t ∧ t.crcv = registersFor (currentBuffer p) :=
  runProgram_keeps bufferAfter (I := fun buffer s => s.crcv = registersFor buffer)
    (fun _ _ _ _ _ => exec_registersFor) registersFor_nil.symm

/-- Settles O42: the registers are `registersFor` of the buffer, whose first bad group is that of its whole groups. -/
theorem registersAreAFunctionOfTheCurrentBuffer : Obligations.RegistersAreAFunctionOfTheCurrentBuffer := by
  intro p
  obtain ⟨t, hrun, ht⟩ := runProgram_registersFor p
  refine ⟨t, hrun, ?_⟩
  generalize currentBuffer p = s at ht
  have hbad := firstBadGroup_wholeGroups s
  have hlength := length_wholeGroups s
  rw [ht]
  refine ⟨rfl, rfl, ?fail, fun k hk => ?fgrp, toNat_counter _⟩
  case fail =>
    rw [← wholeGroups, validate_eq_some_iff, and_iff_right (by omega), ← firstBadGroup_eq_none, hbad, registersFor_fail,
      Option.isSome_eq_false_iff, Option.isNone_iff_eq_none]
  case fgrp =>
    rw [← wholeGroups, hbad] at hk
    rw [registersFor_fail, registersFor_fgrp, hk]
    exact ⟨rfl, toNat_counter k⟩

/-- Settles O43: O46 on the current buffer. -/
theorem verdictIsAPureFunctionOfTheBuffer : Obligations.VerdictIsAPureFunctionOfTheBuffer := by
  intro p
  obtain ⟨t, hrun, ht⟩ := runProgram_registersFor p
  obtain ⟨u, hvend, -, hanswer⟩ := vendAnswersTheValidatorOnTheBuffer t _ ht
  exact ⟨u, runProgram_concat hrun hvend, hanswer⟩

theorem foldl_bufferAfter_vbyte (bytes buffer : List Byte) :
    (bytes.map Instr.vbyte).foldl bufferAfter buffer = buffer ++ bytes := by
  induction bytes generalizing buffer with
  | nil => simp
  | cons b bytes ih => simp [bufferAfter, ih]

/-- Pushing bytes runs through, to the registers of the longer buffer, with the bus and the port events as they were. -/
theorem runProgram_vbytes {s : State} {buffer : List Byte} (bytes : List Byte) (hs : s.crcv = registersFor buffer) :
    ∃ t, runProgram (bytes.map .vbyte) s = .next t ∧ t.crcv = registersFor (buffer ++ bytes) ∧ t.bus = s.bus ∧
      t.inputs = s.inputs := by
  rw [← foldl_bufferAfter_vbyte]
  refine runProgram_keeps bufferAfter
    (I := fun buffer u => u.crcv = registersFor buffer ∧ u.bus = s.bus ∧ u.inputs = s.inputs) ?_ ⟨hs, rfl, rfl⟩
  rintro i hi buffer u t ⟨hu, hbus, hinputs⟩ hexec
  obtain ⟨b, -, rfl⟩ := List.mem_map.mp hi
  have hkept := exec_registersFor hu hexec
  cases hexec
  exact ⟨hkept, hbus, hinputs⟩

/-- Settles O47: VSTART leaves the registers of the empty buffer, the bytes those of the whole buffer, on which VEND answers
as in O46. -/
theorem validateProgramComputesTheValidator : Obligations.ValidateProgramComputesTheValidator := by
  intro s bytes
  refine ⟨by simp [expandValidate], ?_⟩
  obtain ⟨t, hrun, ht, hbus, hinputs⟩ := runProgram_vbytes (buffer := []) bytes
    (s := (s.setCrcv Crcv.reset).respond .ok false 0#16) registersFor_nil.symm
  obtain ⟨u, hvend, hkept, hok, hlen⟩ := vendAnswersTheValidatorOnTheBuffer t _ ht
  refine ⟨u, ?_, hok, hlen, validate_eq_none_iff, hkept.trans ht, ?_, (exec_inputs hvend).trans hinputs⟩
  · rw [expandValidate, List.cons_append, runProgram_cons _ (exec_vstart s), runProgram_concat hrun hvend]
  · exact (exec_bus_of_not_cmdForm hvend (by intro c; cases c <;> nofun)).trans hbus

/-- FAIL is 1, by the group that FGRP names (R15, R69). -/
def Crcv.FailedAt (r : Crcv) (group : BitVec Config.gidxW) : Prop := r.fail = true ∧ r.fgrp = group

theorem exec_failedAt {i : Instr} {s t : State} {group : BitVec Config.gidxW} (hstart : i ≠ .vstart)
    (hs : s.crcv.FailedAt group) (h : exec i s = .next t) : t.crcv.FailedAt group := by
  obtain ⟨hfail, hgroup⟩ := hs
  obtain ⟨hfails, -⟩ := failIsStickyUntilVstartOrReset
  obtain ⟨-, -, hkept⟩ := fgrpCapturesGidxWhenFailIsSet i s t h
  exact ⟨(hfails i s t h).mpr (.inl ⟨hfail, hstart⟩), (hkept hstart (.inl hfail)).trans hgroup⟩

/-- With FAIL 1, VEND has result 0, inside a group or not (R64). -/
theorem exec_vend_of_fail {s : State} (h : s.crcv.fail = true) :
    ∃ st, exec .vend s = .next (s.respond st false 0#16) := by
  by_cases hpos : s.crcv.pos = 0
  · exact ⟨.ok, by rw [exec_vend_whole hpos, verdict, h]; rfl⟩
  · exact ⟨.errLen, exec_vend_partial hpos⟩

/-- Settles O49: the program keeps the failed group, and VEND keeps the registers and gives no true verdict on it. -/
theorem firstBadGroupFixesTheVerdict : Obligations.FirstBadGroupFixesTheVerdict := by
  intro p s hp hfail
  have hstart : ∀ i ∈ p, i ≠ .vstart := fun i hi he => hp (he ▸ hi)
  obtain ⟨t, hrun, htfail, htgroup⟩ := runProgram_invariant (I := fun t => t.crcv.FailedAt s.crcv.fgrp)
    (fun i hi _ _ => exec_failedAt (hstart i hi)) ⟨hfail, rfl⟩
  obtain ⟨st, hvend⟩ := exec_vend_of_fail htfail
  exact ⟨_, runProgram_concat hrun hvend, htfail, htgroup, _, rfl, rfl⟩

/-- Settles O48: O47 on no bytes. -/
theorem emptyBufferIsValid : Obligations.EmptyBufferIsValid := by
  refine ⟨rfl, fun s => ?_⟩
  obtain ⟨-, t, hrun, hok, -⟩ := validateProgramComputesTheValidator s []
  exact ⟨t, hrun, hok true rfl⟩

/-! ### The three requests in every state -/

theorem failAfter_of_match {r : Crcv} : failAfter r r.crc = r.fail := by simp [failAfter]

theorem exec_vbyte_data {s : State} (b : Byte) (h : s.crcv.pos ≠ 2) :
    exec (.vbyte b) s = .next ((s.setCrcv (s.crcv.takeData b)).respond .ok false 0#16) := by
  rw [exec_vbyte, Crcv.take_data b h]

theorem exec_vbyte_checksum {s : State} (b : Byte) (h : s.crcv.pos = 2) :
    exec (.vbyte b) s = .next ((s.setCrcv (s.crcv.takeChecksum b)).respond .ok false 0#16) := by
  rw [exec_vbyte, Crcv.take_checksum b h]

/-- Settles O19: the reset registers, and the step's equation on a VSTART word. -/
theorem vstartBeginsABuffer : Obligations.VstartBeginsABuffer := by
  refine ⟨exec_vstart, fun s arg rest => ?_⟩
  rw [step_request, ← requestWord, decodeRequest_op0]
  by_cases harg : arg = 0#8
  · rw [if_pos harg, if_neg (not_not.mpr harg)]
    rfl
  · rw [if_neg harg, if_pos harg]

/-- Settles O20: a data byte before POS 2; at POS 2 the checksum byte, with FAIL and FGRP as their laws say. -/
theorem vbyteTakesTheNextByte : Obligations.VbyteTakesTheNextByte := by
  intro s b
  refine ⟨decodeRequest_op1 b, fun hpos => ?first, fun hpos => ?second, fun hpos hne hfail => ?mismatch,
    fun hpos hkept => ?kept⟩
  case first =>
    rw [exec_vbyte_data b (by rw [hpos]; decide), Crcv.takeData, hpos]
    rfl
  case second =>
    rw [exec_vbyte_data b (by rw [hpos]; decide), Crcv.takeData, hpos]
    rfl
  case mismatch =>
    rw [exec_vbyte_checksum b hpos, Crcv.takeChecksum, failAfter_eq_true.mpr (.inr hne), fgrpAfter_of_mismatch hfail hne]
    rfl
  case kept =>
    rw [exec_vbyte_checksum b hpos, Crcv.takeChecksum]
    rcases hkept with rfl | hfail
    · rw [failAfter_of_match, fgrpAfter_of_match]
      rfl
    · rw [failAfter_of_fail hfail, fgrpAfter_of_fail hfail, ← hfail]
      rfl

/-- Settles O21: VEND on whole groups and inside a group, and the step's equation on a VEND word. -/
theorem vendGivesTheVerdict : Obligations.VendGivesTheVerdict := by
  refine ⟨fun s => ⟨exec_vend_partial, fun hpos hfail => ?_, fun hpos hfail => ?_⟩, fun s arg rest => ?_⟩
  · rw [exec_vend_whole hpos, verdict, hfail]
    rfl
  · rw [exec_vend_whole hpos, verdict, hfail]
    rfl
  · rw [step_request, ← requestWord, decodeRequest_op2]
    by_cases harg : arg = 0#8
    · rw [if_pos harg, if_neg (not_not.mpr harg)]
    · rw [if_neg harg, if_pos harg]

end Sys2Proof.Machine
end

section
/-! The encoder family (spec/41_command_encoder.md R80 to R92): the two bytes of a frame, which arguments of an ENC word name
a command, and what an ENC and a SEND leave. An ENC answers its command's opcode from every state, so that the frame it
returned is the one its wire row writes. -/

namespace Sys2Proof

/-! ### The two bytes of a frame -/

@[simp] theorem highByte_append (b0 b1 : Byte) : highByte (b0 ++ b1) = b0 := BitVec.extractLsb'_append_eq_left

@[simp] theorem lowByte_append (b0 b1 : Byte) : lowByte (b0 ++ b1) = b1 := BitVec.extractLsb'_append_eq_right

theorem frame16_append (b0 b1 : Byte) : frame16 (b0 ++ b1) = [b0, b1] := by
  rw [frame16, highByte_append, lowByte_append]

theorem wordOfBytes_eq_shift_or (b0 b1 : Byte) :
    wordOfBytes b0 b1 = (b0.setWidth 16 <<< 8) ||| b1.setWidth 16 := by
  rw [wordOfBytes, BitVec.append_def, BitVec.shiftLeftZeroExtend_eq, BitVec.setWidth'_eq]

/-- Status OK and result 0 are three zero bits above the frame (R45). -/
theorem Response.toWord_ok_frame (f : CmdWord) : Response.toWord ⟨.ok, false, f⟩ = f.setWidth 19 := by
  have hhigh : Status.ok.code ++ BitVec.ofBool false = 0#3 := rfl
  rw [Response.toWord, BitVec.append_assoc', hhigh, BitVec.setWidth_eq_append (by decide)]

/-! ### The argument of an ENC word -/

/-- The argument is reserved: bits above the selector, or a selector that names no command (R83). -/
abbrev EncArgReserved (arg : Byte) : Prop := arg.extractLsb' 3 5 ≠ 0#5 ∨ 6 ≤ (arg.extractLsb' 0 3).toNat

theorem commandOf_eq_none {sel : BitVec 3} (h : 6 ≤ sel.toNat) : commandOf sel = none := by
  rw [← Option.not_isSome_iff_eq_none, commandOf_isSome, decide_eq_true_iff]
  exact Nat.not_lt_of_le h

theorem exists_commandOf {sel : BitVec 3} (h : sel.toNat < 6) : ∃ c, commandOf sel = some c := by
  rw [← Option.isSome_iff_exists, commandOf_isSome]
  exact decide_eq_true h

theorem decodeRequest_enc_of_reserved {arg : Byte} (h : EncArgReserved arg) :
    decodeRequest (requestWord 3#3 arg) = .error .errArg := by
  rw [decodeRequest_op3]
  by_cases hbits : arg.extractLsb' 3 5 = 0#5
  · rw [if_pos hbits, commandOf_eq_none (h.resolve_left (not_not.mpr hbits))]
  · rw [if_neg hbits]

theorem decodeRequest_enc_of_not_reserved {arg : Byte} (h : ¬ EncArgReserved arg) :
    ∃ c, commandOf (arg.extractLsb' 0 3) = some c ∧ decodeRequest (requestWord 3#3 arg) = .ok (encForm c) := by
  obtain ⟨hbits, hsel⟩ := not_or.mp h
  obtain ⟨c, hc⟩ := exists_commandOf (Nat.lt_of_not_le hsel)
  exact ⟨c, hc, by rw [decodeRequest_op3, if_pos (not_not.mp hbits), hc]⟩

namespace Machine

/-! ### ENC and SEND -/

/-- SEND leaves what the wire row makes of the answered state (R90). -/
theorem runProgram_expandSend (c : Command) (s : State) :
    runProgram (expandSend c) s = .next ((s.answerFrame c).busWrite c) := by
  rw [expandSend, runProgram_cons _ (exec_encForm c s), runProgram_cons _ (exec_cmdForm c _), runProgram_nil]

/-- The request word, the step, the response word and the bus bytes of an encoder form, for every command (R84 to R89). -/
theorem encForm_answers (c : Command) (s : State) :
    decodeRequest (requestWord 3#3 ((selectorOf c).setWidth 8)) = .ok (encForm c) ∧
      exec (encForm c) s = .next (s.answerFrame c) ∧
      Response.toWord ⟨.ok, false, opcode c⟩ = (opcode c).setWidth 19 ∧
      frame16 (opcode c) = [highByte (opcode c), lowByte (opcode c)] :=
  ⟨decodeRequest_selectorOf c, exec_encForm c s, Response.toWord_ok_frame (opcode c), rfl⟩

/-! ### The obligations -/

/-- Settles O23: a reserved argument is refused by the decoder, any other selects the command whose form the step runs. -/
theorem encGeneralForm : Obligations.EncGeneralForm := by
  intro s arg rest
  rw [step_request, ← requestWord]
  by_cases h : EncArgReserved arg
  · rw [if_pos h, decodeRequest_enc_of_reserved h]
  · obtain ⟨c, hc, hdecode⟩ := decodeRequest_enc_of_not_reserved h
    rw [if_neg h, hdecode]
    exact ⟨c, hc, exec_encForm c _⟩

/-- Settles O25: ENC returns the opcode, and the wire row after it writes the two bytes of the same opcode. -/
theorem sendWritesTheReturnedFrame : Obligations.SendWritesTheReturnedFrame := fun c s =>
  ⟨_, _, _, exec_encForm c s, s.answerFrame_rsp c, rfl, s.answerFrame_bus c, runProgram_expandSend c s,
    State.busWrite_bus _ c, rfl, rfl, rfl⟩

/-- Settles O7: the two bytes are the fields of the word, which putting them together restores. -/
theorem frameIsBigEndianAndLosesNothing : Obligations.FrameIsBigEndianAndLosesNothing :=
  ⟨fun _ => rfl, fun b0 b1 => ⟨frame16_append b0 b1, wordOfBytes_eq_shift_or b0 b1⟩⟩

/-- Settles O22: `encForm_answers` at each of the six commands. -/
theorem encoderFormsAnswerTheirOpcodes : Obligations.EncoderFormsAnswerTheirOpcodes := fun s =>
  ⟨encForm_answers .wakeup s, encForm_answers .reset s, encForm_answers .sleep s, encForm_answers .readId s,
    encForm_answers .measureNormal s, encForm_answers .measureLowPower s⟩

/-- Settles O26: the response is made of the command alone. -/
theorem encIgnoresTheState : Obligations.EncIgnoresTheState := fun c s s' =>
  ⟨_, _, exec_encForm c s, exec_encForm c s', rfl, rfl, rfl⟩

end Machine
end Sys2Proof
end

section
/-! The host's procedures (spec/49_host_protocol.md R101 to R116): one equation per way through each procedure, what the
block's check answers, and two readings of the trace: that no Sleep was added to it, and how many bus reads it holds. Each
obligation follows the procedure's steps by these. At the end, the unit conversions at the ends of their range (R114). -/

namespace Sys2Proof.Machine

/-! ### Sending a command, and the block's check -/

/-- A command's two bytes tell it apart from the others. -/
theorem frame16_opcode_injective {c d : Command} (h : frame16 (opcode c) = frame16 (opcode d)) : c = d :=
  highByte_opcode_injective (List.cons.inj h).1

@[simp] theorem sendCommand_trace (hp : Config.HostParams) (c : Command) (acked : Bool) (w : World) :
    (sendCommand hp c acked w).2.trace =
      w.trace ++ [.lock, .busWrite hp.devAddr (frame16 (opcode c)) acked, .unlock] := by
  rw [sendCommand_eq]

theorem World.issue_of_runProgram {w : World} {p : List Instr} {t : State} (h : runProgram p w.block = .next t) :
    w.issue p = { w with block := t } := by
  rw [World.issue, h]

/-- On whole groups the check is answered OK, with the validator's value as result (R66, R133). -/
theorem crcPasses_rsp_of_whole {bytes : List Byte} (w : World) (h : bytes.length % 3 = 0) :
    (crcPasses bytes w).2.block.rsp = some ⟨.ok, groupsOk bytes, 0#16⟩ := by
  obtain ⟨-, t, hrun, hanswer, -⟩ := validateProgramComputesTheValidator w.block bytes
  rw [crcPasses, World.issue_of_runProgram hrun]
  exact hanswer _ (validate_of_whole h)

/-- The check passes on whole groups exactly when each is good (R109). -/
theorem crcPasses_fst_of_whole {bytes : List Byte} (w : World) (h : bytes.length % 3 = 0) :
    (crcPasses bytes w).1 = groupsOk bytes := by
  have hrsp := crcPasses_rsp_of_whole w h
  rw [crcPasses] at hrsp ⊢
  rw [hrsp]
  cases groupsOk bytes <;> rfl

/-! ### The polling loop -/

theorem pollMeasurement_of_acked {hp : Config.HostParams} {a : ReadAnswer 6} (as : List (ReadAnswer 6)) (w : World)
    (h : a.acked = true) : pollMeasurement hp (a :: as) w = (some a.bytes, (readResponse hp 6 a w).2) := by
  simp [pollMeasurement, h]

theorem pollMeasurement_of_failed {hp : Config.HostParams} {a : ReadAnswer 6} (as : List (ReadAnswer 6)) (w : World)
    (h : a.acked = false) :
    pollMeasurement hp (a :: as) w =
      pollMeasurement hp as
        (if as.isEmpty then (readResponse hp 6 a w).2 else (readResponse hp 6 a w).2.log [.sleepMillis 1]) := by
  simp [pollMeasurement, h]

/-- Failed polls leave the loop with nothing. -/
theorem pollMeasurement_fst_of_failed {hp : Config.HostParams} {as : List (ReadAnswer 6)} (w : World)
    (h : ∀ a ∈ as, a.acked = false) : (pollMeasurement hp as w).1 = none := by
  rw [pollMeasurement_fst, List.find?_eq_none.mpr (by simpa using h), Option.map_none]

/-- The loop hands on the answer that is acknowledged after failed polls, whatever would come later (R108). -/
theorem pollMeasurement_fst_of_answer {hp : Config.HostParams} {failed : List (ReadAnswer 6)} {a : ReadAnswer 6}
    (later : List (ReadAnswer 6)) (w : World) (hfailed : ∀ b ∈ failed, b.acked = false) (ha : a.acked = true) :
    (pollMeasurement hp (failed ++ a :: later) w).1 = some a.bytes := by
  rw [pollMeasurement_fst, List.find?_append, List.find?_eq_none.mpr (by simpa using hfailed), Option.none_or,
    List.find?_cons_of_pos ha, Option.map_some]

/-! ### `read`, one equation per way through it -/

theorem judgeAnswer_eq (bytes : Vector Byte 6) (w : World) :
    judgeAnswer bytes w =
      { outcome := if (crcPasses bytes.toList w).1 then .ok (decodeMeasurement bytes) else .error .checksumError
        world := (crcPasses bytes.toList w).2 } := by
  rw [judgeAnswer]
  rcases crcPasses bytes.toList w with ⟨_ | _, w1⟩ <;> rfl

/-- Where step 2 of `read` ends: the wait after the Wakeup, then the measure command (R107). -/
def measureSent (hp : Config.HostParams) (lowPower acked : Bool) (w : World) : World :=
  (sendCommand hp (if lowPower then .measureLowPower else .measureNormal) acked (w.log [.delayMicros 240])).2

/-- Where the polling begins: with the wait of the normal mode behind it (R108). -/
def pollStart (hp : Config.HostParams) (lowPower : Bool) (w : World) : World :=
  if lowPower then measureSent hp lowPower true w else (measureSent hp lowPower true w).log [.sleepMillis 10]

section measureSteps
variable {hp : Config.HostParams} {lowPower : Bool} {a : CycleAnswers hp.pollMax}

theorem measureSteps_of_nack (w : World) (h : a.measureAck = false) :
    measureSteps hp lowPower a w =
      { outcome := .error .transportError, world := measureSent hp lowPower false w } := by
  rw [measureSteps, measureSent, h, sendCommand_eq]

theorem measureSteps_of_timeout {w w2 : World} (h : a.measureAck = true)
    (hpoll : pollMeasurement hp a.polls.toList (pollStart hp lowPower w) = (none, w2)) :
    measureSteps hp lowPower a w = { outcome := .error .timeoutError, world := w2 } := by
  simp only [pollStart, measureSent, sendCommand_eq] at hpoll
  simp only [measureSteps, h, sendCommand_eq, hpoll]

theorem measureSteps_of_answer {w w2 : World} {bytes : Vector Byte 6} (h : a.measureAck = true)
    (hpoll : pollMeasurement hp a.polls.toList (pollStart hp lowPower w) = (some bytes, w2)) :
    measureSteps hp lowPower a w = judgeAnswer bytes w2 := by
  simp only [pollStart, measureSent, sendCommand_eq] at hpoll
  simp only [measureSteps, h, sendCommand_eq, hpoll]

theorem readCycle_of_nack (w : World) (h : a.wakeAck = false) :
    readCycle hp lowPower a w =
      { outcome := .error .transportError, world := (sendCommand hp .wakeup false w).2 } := by
  rw [readCycle, h, sendCommand_eq]

/-- Past an acknowledged Wakeup the measuring steps give the outcome, and Sleep is sent after them (R111). -/
theorem readCycle_of_ack (w : World) (h : a.wakeAck = true) :
    readCycle hp lowPower a w =
      { outcome := (measureSteps hp lowPower a (sendCommand hp .wakeup true w).2).outcome
        world :=
          (sendCommand hp .sleep a.sleepAck (measureSteps hp lowPower a (sendCommand hp .wakeup true w).2).world).2 } := by
  rw [readCycle, h, sendCommand_eq]

end measureSteps

/-! ### Steps that send no Sleep -/

/-- From `w` to `w'` the host has added events to its trace, and no Sleep write among them. -/
def World.AddsNoSleep (w w' : World) : Prop :=
  ∃ es, w'.trace = w.trace ++ es ∧
    ∀ address acked, HostEvent.busWrite address (frame16 (opcode .sleep)) acked ∉ es

theorem World.AddsNoSleep.of_trace_eq {w w' : World} (h : w'.trace = w.trace) : w.AddsNoSleep w' :=
  ⟨[], by rw [h, List.append_nil], fun _ _ => List.not_mem_nil⟩

theorem World.AddsNoSleep.trans {w u v : World} (hu : w.AddsNoSleep u) (hv : u.AddsNoSleep v) : w.AddsNoSleep v := by
  obtain ⟨es, hes, hnone⟩ := hu
  obtain ⟨fs, hfs, hnone'⟩ := hv
  refine ⟨es ++ fs, by rw [hfs, hes, List.append_assoc], fun address acked hmem => ?_⟩
  exact (List.mem_append.mp hmem).elim (hnone address acked) (hnone' address acked)

theorem addsNoSleep_log {es : List HostEvent} (w : World)
    (h : ∀ address acked, HostEvent.busWrite address (frame16 (opcode .sleep)) acked ∉ es) : w.AddsNoSleep (w.log es) :=
  ⟨es, w.log_trace es, h⟩

theorem addsNoSleep_readResponse (hp : Config.HostParams) (n : Nat) (a : ReadAnswer n) (w : World) :
    w.AddsNoSleep (readResponse hp n a w).2 :=
  addsNoSleep_log w (by simp)

theorem addsNoSleep_sendCommand (hp : Config.HostParams) {c : Command} (acked : Bool) (w : World) (hc : c ≠ .sleep) :
    w.AddsNoSleep (sendCommand hp c acked w).2 := by
  refine ⟨_, sendCommand_trace hp c acked w, fun address acked' hmem => hc ?_⟩
  simp only [List.mem_cons, reduceCtorEq, HostEvent.busWrite.injEq, List.not_mem_nil, or_false, false_or] at hmem
  obtain ⟨-, hframe, -⟩ := hmem
  exact (frame16_opcode_injective hframe).symm

theorem addsNoSleep_crcPasses (bytes : List Byte) (w : World) : w.AddsNoSleep (crcPasses bytes w).2 :=
  .of_trace_eq (crcPasses_trace bytes w)

theorem addsNoSleep_judgeAnswer (bytes : Vector Byte 6) (w : World) : w.AddsNoSleep (judgeAnswer bytes w).world := by
  rw [judgeAnswer_eq]
  exact addsNoSleep_crcPasses bytes.toList w

theorem addsNoSleep_pollMeasurement (hp : Config.HostParams) (as : List (ReadAnswer 6)) (w : World) :
    w.AddsNoSleep (pollMeasurement hp as w).2 := by
  induction as generalizing w with
  | nil => exact .of_trace_eq rfl
  | cons a as ih =>
    have hread := addsNoSleep_readResponse hp 6 a w
    cases h : a.acked with
    | true => rwa [pollMeasurement_of_acked as w h]
    | false =>
      rw [pollMeasurement_of_failed as w h]
      refine .trans ?_ (ih _)
      split
      · exact hread
      · exact hread.trans (addsNoSleep_log _ (by simp))

theorem addsNoSleep_measureSent (hp : Config.HostParams) (lowPower acked : Bool) (w : World) :
    (w.log [.delayMicros 240]).AddsNoSleep (measureSent hp lowPower acked w) :=
  addsNoSleep_sendCommand hp acked _ (by cases lowPower <;> decide)

theorem addsNoSleep_pollStart (hp : Config.HostParams) (lowPower : Bool) (w : World) :
    (w.log [.delayMicros 240]).AddsNoSleep (pollStart hp lowPower w) := by
  have hsent := addsNoSleep_measureSent hp lowPower true w
  cases lowPower with
  | true => exact hsent
  | false => exact hsent.trans (addsNoSleep_log _ (by simp))

/-- After the wait for the sensor's wake-up, the measuring steps send no Sleep, wherever they end. -/
theorem addsNoSleep_measureSteps (hp : Config.HostParams) (lowPower : Bool) (a : CycleAnswers hp.pollMax) (w : World) :
    (w.log [.delayMicros 240]).AddsNoSleep (measureSteps hp lowPower a w).world := by
  cases hack : a.measureAck with
  | false =>
    rw [measureSteps_of_nack w hack]
    exact addsNoSleep_measureSent hp lowPower false w
  | true =>
    have hpolled := (addsNoSleep_pollStart hp lowPower w).trans (addsNoSleep_pollMeasurement hp a.polls.toList _)
    rcases hpoll : pollMeasurement hp a.polls.toList (pollStart hp lowPower w) with ⟨_ | bytes, w2⟩
    · rw [hpoll] at hpolled
      rwa [measureSteps_of_timeout hack hpoll]
    · rw [hpoll] at hpolled
      rw [measureSteps_of_answer hack hpoll]
      exact hpolled.trans (addsNoSleep_judgeAnswer bytes w2)

/-! ### How many bus reads a trace holds -/

/-- The event is a bus read. -/
def HostEvent.isRead : HostEvent → Bool
  | .busRead .. => true
  | _ => false

/-- The bus reads of the host so far. -/
def World.reads (w : World) : Nat := w.trace.countP HostEvent.isRead

theorem World.reads_log_of_no_read {es : List HostEvent} (w : World) (h : es.countP HostEvent.isRead = 0) :
    (w.log es).reads = w.reads := by
  rw [World.reads, World.log_trace, List.countP_append, h, Nat.add_zero, World.reads]

theorem reads_sendCommand (hp : Config.HostParams) (c : Command) (acked : Bool) (w : World) :
    (sendCommand hp c acked w).2.reads = w.reads := by
  rw [World.reads, sendCommand_trace, List.countP_append]
  rfl

theorem reads_readResponse (hp : Config.HostParams) (n : Nat) (a : ReadAnswer n) (w : World) :
    (readResponse hp n a w).2.reads = w.reads + 1 := by
  rw [World.reads, readResponse_eq, List.countP_append]
  rfl

theorem reads_pollStart (hp : Config.HostParams) (lowPower : Bool) (w : World) :
    (pollStart hp lowPower w).reads = w.reads := by
  have hsent : (measureSent hp lowPower true w).reads = w.reads := by
    rw [measureSent, reads_sendCommand, World.reads_log_of_no_read _ rfl]
  cases lowPower with
  | true => exact hsent
  | false => exact (World.reads_log_of_no_read _ rfl).trans hsent

/-- Failed polls are one bus read each. -/
theorem reads_pollMeasurement_of_failed (hp : Config.HostParams) {as : List (ReadAnswer 6)} (w : World)
    (h : ∀ a ∈ as, a.acked = false) : (pollMeasurement hp as w).2.reads = w.reads + as.length := by
  induction as generalizing w with
  | nil => rfl
  | cons a as ih =>
    rw [List.forall_mem_cons] at h
    obtain ⟨ha, has⟩ := h
    rw [pollMeasurement_of_failed as w ha, ih _ has, List.length_cons]
    split
    · rw [reads_readResponse]
      omega
    · rw [World.reads_log_of_no_read _ rfl, reads_readResponse]
      omega

/-! ### `init` up to the ID check -/

/-- Where `init` has the ID response: Wakeup, the wait, ReadID, and the read of three bytes (R112). -/
def idRead (hp : Config.HostParams) (id : ReadAnswer 3) (w : World) : World :=
  (readResponse hp 3 id (sendCommand hp .readId true ((sendCommand hp .wakeup true w).2.log [.delayMicros 240])).2).2

theorem addsNoSleep_idRead (hp : Config.HostParams) (id : ReadAnswer 3) (w : World) :
    w.AddsNoSleep (idRead hp id w) :=
  (addsNoSleep_sendCommand hp true w (by decide)).trans <|
    (addsNoSleep_log _ (by simp)).trans <|
      (addsNoSleep_sendCommand hp true _ (by decide)).trans (addsNoSleep_readResponse hp 3 id _)

/-- An ID response that is read and passes the check but does not match ends `init` there (R112, C4). -/
theorem initDevice_of_mismatch {hp : Config.HostParams} {a : InitAnswers} {w w2 : World} (hwake : a.wakeAck = true)
    (hreadId : a.readIdAck = true) (hid : a.id.acked = true)
    (hcheck : crcPasses a.id.bytes.toList (idRead hp a.id w) = (true, w2)) (hmatch : idMatches hp a.id.bytes = false) :
    initDevice hp a w =
      { outcome := .error .protocolMismatchError, world := w2 } := by
  simp only [idRead, sendCommand_eq, readResponse_eq, hid] at hcheck
  simp only [initDevice, hwake, hreadId, sendCommand_eq, readResponse_eq, hid, hcheck, hmatch, if_true,
    Bool.false_eq_true, if_false]

theorem idMatches_eq_false {hp : Config.HostParams} {bytes : Vector Byte 3} :
    idMatches hp bytes = false ↔ bytes[0].getLsbD 3 = false ∨ bytes[1].extractLsb' 0 6 ≠ hp.idFamilyCode := by
  simp only [idMatches, Bool.and_eq_false_iff, beq_eq_false_iff_ne]

/-! ### The obligations on the procedures -/

/-- Settles O52: the Wakeup write is all that `readCycle` does then. -/
theorem readAbortsWhenWakeupIsNotAcknowledged : Obligations.ReadAbortsWhenWakeupIsNotAcknowledged := by
  intro hp lowPower a w hwake
  rw [readCycle_of_nack w hwake]
  exact ⟨rfl, sendCommand_trace hp .wakeup false w⟩

/-- Settles O53: the measuring steps send no Sleep and do not see its acknowledge. -/
theorem readSendsSleepExactlyOnceAtTheEnd : Obligations.ReadSendsSleepExactlyOnceAtTheEnd := by
  intro hp lowPower a w hwake
  refine ⟨?_, fun ack => ?_⟩
  · obtain ⟨es, hes, hnone⟩ := addsNoSleep_measureSteps hp lowPower a (sendCommand hp .wakeup true w).2
    refine ⟨es, ?_, hnone⟩
    rw [readCycle_of_ack w hwake, sendCommand_trace, hes, World.log_trace, sendCommand_trace, List.append_assoc w.trace]
    rfl
  · rw [readCycle_of_ack w hwake, readCycle_of_ack (a := { a with sleepAck := ack }) w hwake]
    rfl

/-- Settles O55: 3 and 6 bytes are whole groups. -/
theorem hostChecksAreAnsweredOk : Obligations.HostChecksAreAnsweredOk := by
  intro bytes w hlength
  have hwhole : bytes.length % 3 = 0 := by omega
  rw [crcPasses_rsp_of_whole w hwhole, crcPasses_fst_of_whole w hwhole]
  exact ⟨fun h => by rw [h], fun h => by rw [h]⟩

/-- Settles O54: the polling loop hands on the acknowledged answer, which is judged by its two groups. -/
theorem readDecodesOnlyCheckedBytes : Obligations.ReadDecodesOnlyCheckedBytes := by
  intro hp lowPower sleepAck b0 b1 b2 b3 b4 b5 polls failed later w hfailed hpolls
  have hcheck (u : World) : (crcPasses [b0, b1, b2, b3, b4, b5] u).1 = (groupOk b0 b1 b2 && groupOk b3 b4 b5) := by
    rw [crcPasses_fst_of_whole u (by simp), groupsOk_group, groupsOk_group, groupsOk, Bool.and_true]
    nofun
  have hanswer (u : World) : (pollMeasurement hp polls.toList u).1 = some #v[b0, b1, b2, b3, b4, b5] := by
    rw [hpolls, pollMeasurement_fst_of_answer later u hfailed rfl]
  rw [readCycle_of_ack w rfl, measureSteps_of_answer rfl (Prod.ext (hanswer _) rfl), judgeAnswer_eq]
  change (if (crcPasses [b0, b1, b2, b3, b4, b5] _).1 then _ else _) = _
  rw [hcheck]
  rfl

/-- Settles O56: the loop leaves with nothing, after one read for each of the POLL_MAX answers. -/
theorem readTimesOutAfterThePollBudget : Obligations.ReadTimesOutAfterThePollBudget := by
  intro hp lowPower a w hwake hmeasure hfailed
  have htimeout := measureSteps_of_timeout (lowPower := lowPower) (w := (sendCommand hp .wakeup true w).2) hmeasure
    (Prod.ext (pollMeasurement_fst_of_failed _ hfailed) rfl)
  rw [readCycle_of_ack w hwake, htimeout]
  refine ⟨rfl, ?_⟩
  change World.reads _ = World.reads w + hp.pollMax
  rw [reads_sendCommand, reads_pollMeasurement_of_failed hp _ hfailed, reads_pollStart, reads_sendCommand,
    Vector.length_toList]

/-- Settles O57: the ID response passes the check, does not match, and no step up to there sends Sleep. -/
theorem initFailsOnAWrongIdBeforeSleep : Obligations.InitFailsOnAWrongIdBeforeSleep := by
  intro hp sleepAck b0 b1 b2 w hgood hwrong
  have hcheck (u : World) : (crcPasses [b0, b1, b2] u).1 = true := by
    rw [crcPasses_fst_of_whole u (by simp), groupsOk_group, hgood, groupsOk, Bool.and_true]
    nofun
  rw [initDevice_of_mismatch (a := ⟨true, true, ⟨true, #v[b0, b1, b2]⟩, sleepAck⟩) rfl rfl rfl
    (Prod.ext (hcheck _) rfl) (idMatches_eq_false.mpr hwrong)]
  exact ⟨rfl, (addsNoSleep_idRead hp _ w).trans (addsNoSleep_crcPasses _ _)⟩

/-- Settles O58: `resetDevice_eq`, whose frame is that of Reset. -/
theorem resetSendsWaitsAndSurfacesTheAcknowledge : Obligations.ResetSendsWaitsAndSurfacesTheAcknowledge := by
  intro hp acked w
  rw [resetDevice_eq]
  exact ⟨rfl, rfl, rfl⟩

/-! ### The conversions -/

/-- The format has the integers that the conversions use (R114, U5). -/
def HasIntegers (f : Config.FloatFormat) : Prop := ∀ n : Int, -65535 ≤ n → n ≤ 65535 → f.round n = n

section conversions
variable {f : Config.FloatFormat} (hf : HasIntegers f)
include hf

/-- An exact result that is one of the integers is not rounded. -/
theorem HasIntegers.round_eq {q : Rat} (n : Int) (hq : q = n) (hlow : -65535 ≤ n) (hhigh : n ≤ 65535) :
    f.round q = n := by
  rw [hq, hf n hlow hhigh]

theorem HasIntegers.lit_eq {n : Nat} (hn : n ≤ 65535) : f.lit n = n :=
  hf.round_eq n (by simp) (by omega) (by omega)

/-- The least raw value is the fraction 0 of the range. -/
theorem HasIntegers.div_zero_top : f.div (f.lit 0) (f.lit 65535) = 0 := by
  rw [hf.lit_eq (by decide), hf.lit_eq (by decide), Config.FloatFormat.div,
    hf.round_eq 0 (by norm_num) (by decide) (by decide), Int.cast_zero]

/-- The greatest raw value is the fraction 1 of the range. -/
theorem HasIntegers.div_top_top : f.div (f.lit 65535) (f.lit 65535) = 1 := by
  rw [hf.lit_eq (by decide), Config.FloatFormat.div,
    hf.round_eq 1 (by norm_num) (by decide) (by decide), Int.cast_one]

theorem HasIntegers.mul_lit_zero {n : Nat} (hn : n ≤ 65535) : f.mul (f.lit n) 0 = 0 := by
  rw [hf.lit_eq hn, Config.FloatFormat.mul, hf.round_eq 0 (by simp) (by decide) (by decide), Int.cast_zero]

theorem HasIntegers.mul_lit_one {n : Nat} (hn : n ≤ 65535) : f.mul (f.lit n) 1 = n := by
  rw [hf.lit_eq hn, Config.FloatFormat.mul, hf.round_eq n (by simp) (by omega) (by omega), Int.cast_natCast]

theorem HasIntegers.toCelsius_zero : toCelsius f 0#16 = -45 := by
  rw [toCelsius, BitVec.toNat_ofNat, Nat.zero_mod, hf.div_zero_top, hf.mul_lit_zero (by decide), hf.lit_eq (by decide),
    Config.FloatFormat.sub, hf.round_eq (-45) (by norm_num) (by decide) (by decide)]
  norm_num

theorem HasIntegers.toCelsius_top : toCelsius f 65535#16 = 130 := by
  have htop : (65535#16).toNat = 65535 := rfl
  rw [toCelsius, htop, hf.div_top_top, hf.mul_lit_one (by decide), hf.lit_eq (by decide), Config.FloatFormat.sub,
    hf.round_eq 130 (by norm_num) (by decide) (by decide)]
  norm_num

theorem HasIntegers.toPercentage_top : toPercentage f 65535#16 = 100 := by
  have htop : (65535#16).toNat = 65535 := rfl
  rw [toPercentage, htop, hf.div_top_top, hf.mul_lit_one (by decide), Nat.cast_ofNat]

theorem HasIntegers.toPercentage_zero : toPercentage f 0#16 = 0 := by
  rw [toPercentage, BitVec.toNat_ofNat, Nat.zero_mod, hf.div_zero_top, hf.mul_lit_zero (by decide)]

end conversions

/-- Settles O59: the ends of the range are the fractions 0 and 1, and every result from there is an integer. -/
theorem conversionsTakeTheirStatedValues : Obligations.ConversionsTakeTheirStatedValues := fun _ =>
  ⟨fun hf => ⟨HasIntegers.toCelsius_zero hf, HasIntegers.toCelsius_top hf, HasIntegers.toPercentage_top hf,
    HasIntegers.toPercentage_zero hf⟩, fun _ => rfl⟩

end Sys2Proof.Machine
end

section
/-! The exceptions family (spec/60_exceptions.md R131 to R137): which words are refused with which status, what a refusal leaves,
and who can meet one. A refused step is a refused word or a VEND inside a group, and leaves `State.refuse`; over a list of
request words the registers are a fold; over a program that keeps the host's duties VEND comes on whole groups only. -/

namespace Sys2Proof

/-! ### The argument of a request word -/

/-- The operation exists and its argument is reserved (R131). -/
abbrev ArgReserved (op : BitVec 3) (arg : Byte) : Prop :=
  (op = 0#3 ∧ arg ≠ 0#8) ∨ (op = 2#3 ∧ arg ≠ 0#8) ∨ (op = 3#3 ∧ EncArgReserved arg)

theorem decodeRequest_of_argReserved {op : BitVec 3} {arg : Byte} (h : ArgReserved op arg) :
    decodeRequest (requestWord op arg) = .error .errArg := by
  rcases h with ⟨rfl, harg⟩ | ⟨rfl, harg⟩ | ⟨rfl, harg⟩
  · rw [decodeRequest_op0, if_neg harg]
  · rw [decodeRequest_op2, if_neg harg]
  · exact decodeRequest_enc_of_reserved harg

/-- A word with an operation and an allowed argument is a request form, and VEND only with operation 2 (R43). -/
theorem decodeRequest_of_argAllowed {op : BitVec 3} {arg : Byte} (hop : op.toNat < 4) (h : ¬ ArgReserved op arg) :
    ∃ i, decodeRequest (requestWord op arg) = .ok i ∧ (i = .vend → op = 2#3) := by
  obtain ⟨hstart, hend, henc⟩ : (op = 0#3 → arg = 0#8) ∧ (op = 2#3 → arg = 0#8) ∧ (op = 3#3 → ¬ EncArgReserved arg) := by
    simpa only [ArgReserved, not_or, not_and, not_not] using h
  have hops : ∀ op : BitVec 3, op.toNat < 4 → op = 0#3 ∨ op = 1#3 ∨ op = 2#3 ∨ op = 3#3 := by decide
  rcases hops op hop with rfl | rfl | rfl | rfl
  · exact ⟨.vstart, by rw [decodeRequest_op0, if_pos (hstart rfl)], nofun⟩
  · exact ⟨.vbyte arg, decodeRequest_op1 arg, nofun⟩
  · exact ⟨.vend, by rw [decodeRequest_op2, if_pos (hend rfl)], fun _ => rfl⟩
  · obtain ⟨c, -, hdecode⟩ := decodeRequest_enc_of_not_reserved (henc rfl)
    exact ⟨encForm c, hdecode, by cases c <;> nofun⟩

namespace Machine

/-! ### Refusals -/

theorem step_request_of_error {w : ReqWord} {st : Status} (s : State) (rest : List PortEvent)
    (h : decodeRequest w = .error st) :
    step { s with inputs := .edge false true w :: rest } =
      .next { s with inputs := rest, rsp := some ⟨st, false, 0#16⟩ } := by
  rw [step_request, h]

/-- The only instruction that can be refused is VEND, inside a group (R131). -/
theorem exec_refused {i : Instr} {s t : State} {r : Response} (h : exec i s = .next t) (hr : t.rsp = some r)
    (hstatus : r.status ≠ .ok) : i = .vend ∧ s.crcv.pos ≠ 0 ∧ t = s.refuse .errLen := by
  rcases instr_cases i with rfl | ⟨b, rfl⟩ | rfl | ⟨c, rfl⟩ | ⟨c, rfl⟩
  · cases h
    cases hr
    exact absurd rfl hstatus
  · cases h
    cases hr
    exact absurd rfl hstatus
  · by_cases hpos : s.crcv.pos = 0
    · rw [exec_vend_whole hpos] at h
      cases h
      cases hr
      exact absurd rfl hstatus
    · rw [exec_vend_partial hpos] at h
      cases h
      exact ⟨rfl, hpos, rfl⟩
  · rw [exec_encForm] at h
    cases h
    cases hr
    exact absurd rfl hstatus
  · rw [exec_cmdForm] at h
    cases h
    cases hr

theorem exec_status_ok {i : Instr} {s t : State} {r : Response} (h : exec i s = .next t) (hr : t.rsp = some r)
    (hvend : i = .vend → s.crcv.pos = 0) : r.status = .ok := by
  by_contra hstatus
  obtain ⟨hi, hpos, -⟩ := exec_refused h hr hstatus
  exact hpos (hvend hi)

/-- A step whose response refuses takes its port event and does nothing but refuse (R132). -/
theorem step_refused {s t : State} {r : Response} (h : step s = .next t) (hr : t.rsp = some r)
    (hstatus : r.status ≠ .ok) : ∃ st, t = s.popInput.refuse st := by
  rcases step_cases h with ⟨-, rfl⟩ | ⟨-, rfl⟩ | ⟨st, -, rfl⟩ | ⟨i, -, hexec⟩
  · cases hr
  · cases hr
  · exact ⟨st, rfl⟩
  · obtain ⟨-, -, hrefuse⟩ := exec_refused hexec hr hstatus
    exact ⟨_, hrefuse⟩

/-- Every request form is answered (R157). -/
theorem exec_answers_of_decodeRequest {w : ReqWord} {i : Instr} {s t : State} (hdecode : decodeRequest w = .ok i)
    (h : exec i s = .next t) : ∃ r, t.rsp = some r := by
  rcases instr_cases i with rfl | ⟨b, rfl⟩ | rfl | ⟨c, rfl⟩ | ⟨c, rfl⟩
  · cases h
    exact ⟨_, rfl⟩
  · cases h
    exact ⟨_, rfl⟩
  · obtain ⟨st, v, rfl⟩ := exec_vend_responds h
    exact ⟨_, rfl⟩
  · rw [exec_encForm] at h
    cases h
    exact ⟨_, rfl⟩
  · rw [decodeRequest_eq_ok_iff, encode_cmdForm] at hdecode
    cases hdecode

/-! ### The registers over a list of request words -/

/-- What an instruction makes of the registers: only VSTART and VBYTE write any (R16). -/
def Crcv.after (r : Crcv) : Instr → Crcv
  | .vstart => Crcv.reset
  | .vbyte b => r.take b
  | _ => r

theorem Crcv.after_of_not_writesRegisters (r : Crcv) {i : Instr} (h : writesRegisters i = false) : r.after i = r := by
  cases i with
  | vstart => cases h
  | vbyte b => cases h
  | _ => rfl

theorem exec_crcv {i : Instr} {s t : State} (h : exec i s = .next t) : t.crcv = s.crcv.after i := by
  rcases exec_registers h with ⟨rfl, hreset⟩ | ⟨b, rfl, htake⟩ | ⟨hw, hkept⟩
  · exact hreset
  · exact htake
  · rw [hkept, Crcv.after_of_not_writesRegisters _ hw]

/-- What a request word makes of the registers; a refused word makes nothing of them (R132). -/
def Crcv.afterWord (r : Crcv) (w : ReqWord) : Crcv :=
  match decodeRequest w with
  | .ok i => r.after i
  | .error _ => r

theorem Crcv.afterWord_of_ok {w : ReqWord} {i : Instr} (r : Crcv) (h : decodeRequest w = .ok i) :
    r.afterWord w = r.after i := by rw [Crcv.afterWord, h]

theorem Crcv.afterWord_of_error {w : ReqWord} {st : Status} (r : Crcv) (h : decodeRequest w = .error st) :
    r.afterWord w = r := by rw [Crcv.afterWord, h]

theorem step_request_crcv {s : State} {w : ReqWord} {rest : List PortEvent}
    (hinputs : s.inputs = .edge false true w :: rest) :
    ∃ t, step s = .next t ∧ t.inputs = rest ∧ t.crcv = s.crcv.afterWord w := by
  have hs : s = { s with inputs := .edge false true w :: rest } := by rw [← hinputs]
  rw [hs]
  cases hdecode : decodeRequest w with
  | error st => exact ⟨_, step_request_of_error s rest hdecode, rfl, (Crcv.afterWord_of_error _ hdecode).symm⟩
  | ok i =>
    obtain ⟨t, hexec⟩ := exec_total i { s with inputs := rest }
    exact ⟨t, (step_request_of_decode s rest hdecode).trans hexec, exec_inputs hexec,
      by rw [exec_crcv hexec, Crcv.afterWord_of_ok _ hdecode]⟩

theorem run_succ_of_step {M : Host.Core} {k : Nat} {s t : M.State} (h : M.step s = .next t) :
    M.run (k + 1) s = M.run k t := by rw [Host.Core.run, h]

/-- Every list of request words is answered to its end, and the registers are the fold of the words. -/
theorem run_requests {ws : List ReqWord} {s : State} (hinputs : s.inputs = ws.map (.edge false true)) :
    ∃ t : State, core.run ws.length s = .next t ∧ t.crcv = ws.foldl Crcv.afterWord s.crcv := by
  induction ws generalizing s with
  | nil => exact ⟨s, rfl, rfl⟩
  | cons w ws ih =>
    obtain ⟨u, hstep, hrest, hu⟩ := step_request_crcv hinputs
    rw [List.length_cons, run_succ_of_step (M := core) hstep, List.foldl_cons, ← hu]
    exact ih hrest

theorem foldl_afterWord_filter {counts : ReqWord → Bool} (hkeep : ∀ r w, counts w = false → Crcv.afterWord r w = r)
    (ws : List ReqWord) (r : Crcv) : (ws.filter counts).foldl Crcv.afterWord r = ws.foldl Crcv.afterWord r := by
  rw [List.foldl_filter]
  congr
  funext r w
  cases hw : counts w with
  | true => rfl
  | false => exact (hkeep r w hw).symm

/-! ### A host that keeps its duties -/

/-- The count of `buffersBegun` is the length of the current buffer (R21, R120). -/
theorem buffersBegun_of_append {p q : List Instr} {buffer : List Byte} {ended : Bool}
    (h : buffersBegun buffer.length ended (p ++ q) = true) :
    ∃ ended', buffersBegun (p.foldl bufferAfter buffer).length ended' q = true := by
  induction p generalizing buffer ended with
  | nil => exact ⟨ended, h⟩
  | cons i p ih =>
    rw [List.foldl_cons]
    cases i with
    | vstart => exact ih (buffer := []) (Bool.and_elim_right h)
    | vbyte b =>
      refine ih (ended := ended) ?_
      rw [bufferAfter, List.length_append]
      exact Bool.and_elim_right h
    | vend => exact ih (Bool.and_elim_right h)
    | _ => exact ih h

/-- VEND comes on whole groups only (R120). -/
theorem buffersBegun_vend {n : Nat} {ended : Bool} {q : List Instr} (h : buffersBegun n ended (.vend :: q) = true) :
    n % 3 = 0 :=
  eq_of_beq (Bool.and_elim_left h)

/-! ### The obligations -/

/-- Settles O17: a step that refuses leaves `State.refuse`, whose frame lemmas are the clauses. -/
theorem refusedRequestChangesNothing : Obligations.RefusedRequestChangesNothing := by
  intro s t r h hr hstatus
  obtain ⟨st, rfl⟩ := step_refused h hr hstatus
  cases hr
  exact ⟨rfl, rfl, rfl, rfl, rfl⟩

/-- Settles O16: the decoder refuses by operation, then by argument; a word it accepts can only be refused as a VEND inside
a group. -/
theorem statusPriority : Obligations.StatusPriority := by
  intro s op arg rest reserved answers
  refine ⟨fun hop => ?errOp, fun _ hreserved => ?errArg, ?errLen, fun hop hallowed hvend => ?ok⟩
  case errOp => exact step_request_of_error s rest (decodeRequest_op_reserved arg hop)
  case errArg => exact step_request_of_error s rest (decodeRequest_of_argReserved hreserved)
  case errLen =>
    rintro rfl rfl hpos
    exact exec_vend_partial (s := { s with inputs := rest }) hpos
  case ok =>
    obtain ⟨i, hdecode, hop2⟩ := decodeRequest_of_argAllowed hop hallowed
    obtain ⟨t, hexec⟩ := exec_total i { s with inputs := rest }
    obtain ⟨⟨st, v, f⟩, hr⟩ := exec_answers_of_decodeRequest hdecode hexec
    have hok : st = .ok := exec_status_ok hexec hr fun hi => of_not_not fun hpos => hvend ⟨hop2 hi, hpos⟩
    exact ⟨t, v, f, (step_request_of_decode s rest hdecode).trans hexec, hok ▸ hr⟩

/-- Settles O50: the registers are a fold of the words, in which a word that does not count keeps them. -/
theorem otherRequestsDoNotDisturbTheBuffer : Obligations.OtherRequestsDoNotDisturbTheBuffer := by
  intro s ws counts after
  have hkeep : ∀ r w, counts w = false → Crcv.afterWord r w = r := by
    intro r w hw
    cases hdecode : decodeRequest w with
    | error st => exact Crcv.afterWord_of_error r hdecode
    | ok i =>
      simp only [counts, hdecode] at hw
      rw [Crcv.afterWord_of_ok r hdecode, Crcv.after_of_not_writesRegisters r hw]
  have hrun : ∀ vs : List ReqWord, ∃ t : State, after vs = .next t ∧ t.crcv = vs.foldl Crcv.afterWord s.crcv :=
    fun vs => run_requests (s := { s with inputs := vs.map (.edge false true) }) rfl
  obtain ⟨t, ht, htregs⟩ := hrun ws
  obtain ⟨u, hu, huregs⟩ := hrun (ws.filter counts)
  exact ⟨t, u, ht, hu, by rw [htregs, huregs, foldl_afterWord_filter hkeep]⟩

/-- Settles O51: before the last instruction POS is the length of the current buffer modulo 3, which is 0 where the duties
allow a VEND, and nothing else is refused. -/
theorem dutifulHostSeesNoErrorStatus : Obligations.DutifulHostSeesNoErrorStatus := by
  intro p q hduties
  obtain ⟨hbegun, -⟩ := Bool.and_eq_true_iff.mp hduties
  rcases List.eq_nil_or_concat' p with rfl | ⟨p, i, rfl⟩
  · exact ⟨State.reset, rfl, nofun⟩
  · obtain ⟨s, hrun, hs⟩ := runProgram_registersFor p
    obtain ⟨t, hexec⟩ := exec_total i s
    refine ⟨t, runProgram_concat hrun hexec, fun r hr => exec_status_ok hexec hr ?_⟩
    rintro rfl
    rw [List.append_assoc] at hbegun
    obtain ⟨ended, hvend⟩ := buffersBegun_of_append (buffer := []) hbegun
    rw [hs, registersFor_pos_eq_zero]
    exact buffersBegun_vend hvend

end Machine
end Sys2Proof
end

section
/-! The reset and hazards family (spec/70_reset_and_hazards.md R150, R157, R158): what a clock edge does by what it presents.
A step without an instruction is one equation in its task, and the edge fixes the task; a request word is refused with a
response or decoded to an instruction that answers. -/

namespace Sys2Proof.Machine

/-! ### Steps that run no instruction -/

/-- An idle step only takes its port event (R158). -/
theorem step_of_idle {s : State} (h : s.task = .idle) : step s = .next s.popInput.silent := by rw [step, h]

/-- A reset step takes its port event and leaves the reset registers (R150). -/
theorem step_of_reset {s : State} (h : s.task = .reset) : step s = .next s.popInput.applyReset := by rw [step, h]

/-! ### The obligations -/

/-- Settles O15: the decoder refuses the word, and the refusal is a response, or it accepts it as a request form, and every
request form is answered. -/
theorem everyRequestIsAnswered : Obligations.EveryRequestIsAnswered := by
  intro s w rest
  cases hdecode : decodeRequest w with
  | error st => exact ⟨_, _, step_request_of_error s rest hdecode, rfl, rfl⟩
  | ok i =>
    obtain ⟨t, hexec⟩ := exec_total i { s with inputs := rest }
    obtain ⟨r, hr⟩ := exec_answers_of_decodeRequest hdecode hexec
    exact ⟨t, r, (step_request_of_decode s rest hdecode).trans hexec, hr, exec_inputs hexec⟩

/-- Settles O10: with `rst` asserted the task is the reset, whatever `req_valid` and `req` are. -/
theorem resetEdgeLeavesResetValues : Obligations.ResetEdgeLeavesResetValues :=
  fun _ _ _ _ => step_of_reset rfl

/-- Settles O11: an edge that presents no request, like no port event, leaves the block idle. -/
theorem edgeWithoutRequestChangesNothing : Obligations.EdgeWithoutRequestChangesNothing :=
  ⟨fun _ _ _ => step_of_idle rfl, fun _ => step_of_idle rfl⟩

end Sys2Proof.Machine
end

section
/-! The checksum's derived vectors (spec/95_test_vectors.md 2.1, 2.2, 2.4): a two-byte vector is two byte steps from the
initial value, and its steps are vectors of 2.2 or come from the table form (R70 (b)). -/

namespace Sys2Proof.Machine

theorem crc8_nil : crc8 [] = Config.crcInit := rfl

theorem crc8_pair (d0 d1 : Byte) : crc8 [d0, d1] = crc8Byte (crc8Byte Config.crcInit d0) d1 := rfl

/-- The table form's entry at the initial value: the step shared by the vectors of two equal bytes. -/
theorem crc8Byte_zero_crcInit : crc8Byte 0#8 Config.crcInit = 0xAC#8 := by decide

/-- R70 (b): from the initial value a zero byte steps as the initial value does from 0. -/
theorem crc8_zero_zero : crc8 [0x00, 0x00] = 0x81 := calc
  crc8 [0x00, 0x00] = crc8Byte (crc8Byte Config.crcInit 0#8) 0#8 := crc8_pair 0#8 0#8
  _ = crc8Byte 0xAC#8 0#8 := by rw [crc8Byte_table Config.crcInit, BitVec.xor_zero, crc8Byte_zero_crcInit]
  _ = 0x81 := by decide

/-- R70 (a): the byte that equals the initial value clears the register. -/
theorem crc8_crcInit_crcInit : crc8 [0xFF, 0xFF] = 0xAC := calc
  crc8 [0xFF, 0xFF] = crc8Byte (crc8Byte Config.crcInit Config.crcInit) Config.crcInit :=
    crc8_pair Config.crcInit Config.crcInit
  _ = crc8Byte 0#8 Config.crcInit := by rw [crc8Byte_eq_zero_iff.mpr rfl]
  _ = 0xAC := crc8Byte_zero_crcInit

/-- The check value (2.4): the nine ASCII digits. -/
theorem crc8_nine_digits : crc8 [0x31, 0x32, 0x33, 0x34, 0x35, 0x36, 0x37, 0x38, 0x39] = 0xF7 := by decide +kernel

/-- Settles O37: bit and byte steps by computation, the vectors of bytes from their byte steps. -/
theorem crcVectorsOfTheSpec : Obligations.CrcVectorsOfTheSpec := by
  have hBE : crc8Byte Config.crcInit 0xBE = 0x0C := by decide
  have hEF : crc8Byte 0x0C 0xEF = 0x92 := by decide
  have hBEEF : crc8 [0xBE, 0xEF] = 0x92 := by rw [crc8_pair, hBE, hEF]
  exact ⟨by decide, by decide, by decide, hBE, hEF, by decide, crc8_nil, hBEEF, crc8_zero_zero, crc8_crcInit_crcInit,
    crc8_nine_digits⟩

end Sys2Proof.Machine
end
